-- ==== Sys2Proof/Word.lean ====
section
/-! DEFINITION. The block's units of data: bytes and 16-bit values, all unsigned (00_scope.md R4, 40_frame_codec.md R93). -/

namespace Sys2Proof

/-- One byte, the unit of transfer on the line and inside the block (20_memory.md R42). -/
abbrev Byte := BitVec 8

/-- A 16-bit value: a bus address or a checksum (30_encoding.md R60, R65). -/
abbrev Half := BitVec 16

end Sys2Proof
end

