-- ==== Sys2Proof/Config.lean ====
section
/-! DEFINITION. What is fixed for one instance: the parameters of 00_scope.md R3, and the spec's fixed constants. -/

namespace Sys2Proof

/-- The parameters of one instance (00_scope.md R3), none writable after reset (10_state.md R22).
The three proof fields are R3's constraints: an instance with illegal values cannot be built (10_state.md R22,
93_implementation_defined.md U5). No rule reads `baud`, `tickPeriod`, `timeUnit` or `rxActiveLevel` (R3, D4, D27). -/
structure Params where
  nodeAddr : Half
  backoffMin : Nat
  backoffMax : Nat
  retryInterval : Nat
  readTimeout : Nat
  activityTimeout : Nat
  settleTime : Nat
  baud : Nat
  tickPeriod : Nat
  timeUnit : Nat
  backlogDepth : Nat
  rxActiveLevel : Bool
  backoff_le : backoffMin ≤ backoffMax
  retry_pos : 0 < retryInterval
  depth_pos : 1 ≤ backlogDepth
  deriving DecidableEq, Repr

namespace Config

/-- CTRL_ADDR, the controller's well-known address (00_scope.md R3). -/
def ctrlAddr : Half := 0x0000#16

/-- MAX_PAYLOAD (00_scope.md R3, 30_encoding.md R61). -/
def maxPayload : Nat := 249

/-- MAX_FRAME (00_scope.md R3, 30_encoding.md R61). -/
def maxFrame : Nat := 258

/-- SEQ_RESET (00_scope.md R3, 10_state.md R12, 92_eei_decisions.md D10). -/
def seqReset : Byte := 0x00#8

/-- SEQ_OBSERVE: the rules are written for true (00_scope.md R3, 92_eei_decisions.md D8). -/
def seqObserve : Bool := true

/-! The OPEN parameters of the instance that `State.reset` describes: no source gives them a value, so they are
opaque constants and nothing can be proved of them (00_scope.md R3; notes/assumptions/7.md). -/

opaque nodeAddr : Half
opaque backoffMin : Nat
/-- BACKOFF_MAX less BACKOFF_MIN, so that BACKOFF_MIN <= BACKOFF_MAX holds by construction. -/
opaque backoffSpan : Nat
/-- RETRY_INTERVAL less one, so that RETRY_INTERVAL > 0 holds by construction. -/
opaque retryIntervalLessOne : Nat
opaque readTimeout : Nat
opaque activityTimeout : Nat
opaque settleTime : Nat
opaque baud : Nat
opaque tickPeriod : Nat
opaque timeUnit : Nat
opaque rxActiveLevel : Bool

/-- The instance that `State.reset` describes: OPEN parameters opaque, BACKLOG_DEPTH at its default 1 (00_scope.md R3). -/
def params : Params where
  nodeAddr := nodeAddr
  backoffMin := backoffMin
  backoffMax := backoffMin + backoffSpan
  retryInterval := retryIntervalLessOne + 1
  readTimeout := readTimeout
  activityTimeout := activityTimeout
  settleTime := settleTime
  baud := baud
  tickPeriod := tickPeriod
  timeUnit := timeUnit
  backlogDepth := 1
  rxActiveLevel := rxActiveLevel
  backoff_le := Nat.le_add_right _ _
  retry_pos := Nat.succ_pos _
  depth_pos := Nat.le_refl 1

end Config
end Sys2Proof
end

