-- ==== Sys2Proof/Syntax.lean ====
section
/-! DEFINITION. The instructions: the 5 host commands and the 13 message kinds of spec/opcode_table.json, and the
small closed types they are written with. -/

namespace Sys2Proof

/-- MODE, 2 bits: 0 SLEEP, 1 READY, 2 ARMED, 3 DISARMED (10_state.md R13). -/
inductive Mode where
  | sleep
  | ready
  | armed
  | disarmed
  deriving DecidableEq, Repr

/-- The 13 message kinds, the source's closed enumeration (30_encoding.md R66). -/
inductive MsgKind where
  | requestId
  | responseId
  | ack
  | stop
  | configure
  | start
  | strike
  | error
  | defused
  | needy
  | readStatus
  | status
  | sound
  deriving DecidableEq, Repr

/-- The fields of a frame that a message instruction carries beside its kind (30_encoding.md R60). -/
structure Msg where
  source : Half
  dest : Half
  seq : Byte
  payload : List Byte
  deriving DecidableEq, Repr

/-- One constructor per row of spec/opcode_table.json: the host commands (30_encoding.md R71), then the reaction to
a received frame of each kind (44_node_session.md R170 to R182). -/
inductive Instr where
  | tick
  | unableToArm
  | disarmed
  | strike
  | setMode (m : Mode)
  | msgRequestId (m : Msg)
  | msgResponseId (m : Msg)
  | msgAck (m : Msg)
  | msgStop (m : Msg)
  | msgConfigure (m : Msg)
  | msgStart (m : Msg)
  | msgStrike (m : Msg)
  | msgError (m : Msg)
  | msgDefused (m : Msg)
  | msgNeedy (m : Msg)
  | msgReadStatus (m : Msg)
  | msgStatus (m : Msg)
  | msgSound (m : Msg)
  deriving DecidableEq, Repr

/-- Where an instruction enters the block: the command port, or the line as a received frame (30_encoding.md R77). -/
inductive Port where
  | command
  | line
  deriving DecidableEq, Repr

/-- A payload of at most MAX_PAYLOAD bytes: the width of PEND_PAY and of a backlog entry's payload
(10_state.md R15, R19). A longer one cannot be built, which is how ENCODE refuses it (40_frame_codec.md R95). -/
structure Payload where
  bytes : List Byte
  bound : bytes.length ≤ Config.maxPayload
  deriving DecidableEq, Repr

end Sys2Proof
end

