-- ==== Sys2Proof/WellFormed.lean ====
section
/-! DEFINITION. Which terms of Instr are instructions of the hardware. -/

namespace Sys2Proof

/-- A frame holds at most MAX_PAYLOAD payload bytes (30_encoding.md R61). -/
def Msg.wf (m : Msg) : Bool := decide (m.payload.length ≤ Config.maxPayload)

/-- A command has nothing to check (all four SET_MODE arguments are legal encodings, 30_encoding.md R72); a message's
payload must fit the 8-bit length field. -/
def Instr.wf : Instr → Bool
  | .tick => true
  | .unableToArm => true
  | .disarmed => true
  | .strike => true
  | .setMode _ => true
  | .msgRequestId m => m.wf
  | .msgResponseId m => m.wf
  | .msgAck m => m.wf
  | .msgStop m => m.wf
  | .msgConfigure m => m.wf
  | .msgStart m => m.wf
  | .msgStrike m => m.wf
  | .msgError m => m.wf
  | .msgDefused m => m.wf
  | .msgNeedy m => m.wf
  | .msgReadStatus m => m.wf
  | .msgStatus m => m.wf
  | .msgSound m => m.wf

end Sys2Proof
end

