-- ==== Sys2Proof/Decode.lean ====
section
/-! DEFINITION. The checksum unit CHK, the frame codec (ENCODE, DECODE), the decoder of command words and of accepted
frames, total on any bytes and rejecting by name, and after it the encoder (30_encoding.md, 40_frame_codec.md). -/

namespace Sys2Proof

/-! ### Byte order (00_scope.md R4, 20_memory.md R40) -/

/-- `lo(v) = v[7:0]`. -/
def lo (v : Half) : Byte := v.extractLsb' 0 8

/-- `hi(v) = v[15:8]`. -/
def hi (v : Half) : Byte := v.extractLsb' 8 8

/-- `le16(b0, b1) = b0 + 256*b1`. -/
def le16 (b0 b1 : Byte) : Half := b1 ++ b0

/-- Byte `i` of a byte sequence; DECODE reads only indices that its length test has shown to be there. -/
def byteAt (buf : List Byte) (i : Nat) : Byte := buf.getD i 0#8

/-- `MemRead(buf, off, 2)`, the one way a 16-bit field is read (00_scope.md R5, 30_encoding.md R62). -/
def memRead16 (buf : List Byte) (off : Nat) : Half := le16 (byteAt buf off) (byteAt buf (off + 1))

/-! ### The checksum unit (40_frame_codec.md R90 to R92) -/

/-- CHK_SUM: the sum of the bytes modulo 65536 (R90). -/
def chkSum (bytes : List Byte) : Half := bytes.foldl (fun acc b => acc + b.zeroExtend 16) 0#16

/-- CHK_GEN: `(0xFFFF - S) mod 65536` (R91). -/
def chkGen (bytes : List Byte) : Half := 0xFFFF#16 - chkSum bytes

/-- CHK_VERIFY: `(S + C) mod 65536 = 0xFFFF`, the checksum taken as one 16-bit term (R92, 90_conflicts.md C1). -/
def chkVerify (bytes : List Byte) (c : Half) : Bool := chkSum bytes + c == 0xFFFF#16

/-! ### ENCODE (40_frame_codec.md R95) -/

/-- The bytes before the checksum, in wire order: length, source, dest, type, seq_num, payload (30_encoding.md R60). -/
def frameBody (source dest : Half) (type seq : Byte) (payload : List Byte) : List Byte :=
  [BitVec.ofNat 8 (6 + payload.length), lo source, hi source, lo dest, hi dest, type, seq] ++ payload

/-- A body followed by its checksum, low byte first (30_encoding.md R65). -/
def sealBody (body : List Byte) : List Byte := body ++ [lo (chkGen body), hi (chkGen body)]

/-- A whole frame, for a payload of at most MAX_PAYLOAD bytes (R95's precondition; a longer one is outside the spec). -/
def frameBytes (source dest : Half) (type seq : Byte) (payload : List Byte) : List Byte :=
  sealBody (frameBody source dest type seq payload)

/-- ENCODE(dest, type, seq_num, payload), with ADDR as `source` (R95). Its payload carries its own bound. -/
def encodeFrame (addr dest : Half) (type seq : Byte) (payload : Payload) : List Byte :=
  frameBytes addr dest type seq payload.bytes

/-! ### DECODE (40_frame_codec.md R96) -/

/-- The result of DECODE (R96). -/
structure Packet where
  length : Byte
  source : Half
  dest : Half
  type : Byte
  seq : Byte
  payload : List Byte
  deriving DecidableEq, Repr

/-- What DECODE raises (R96). -/
inductive RxError where
  /-- TIMEOUT: no length byte at all. -/
  | timeout
  /-- SHORT_READ: fewer than `length + 3` bytes. -/
  | shortRead (len : Byte) (got : Nat)
  /-- CHECKSUM_ERROR: `(S + C) mod 65536` is not 0xFFFF. -/
  | checksumError (s c : Half)
  /-- LENGTH_ERROR: checksum-valid with a length below 6. -/
  | lengthError (len : Byte)
  deriving DecidableEq, Repr

/-- The fields of a frame whose length byte is `len`, at their offsets (30_encoding.md R62). -/
def packetOf (len : Byte) (buf : List Byte) : Packet where
  length := len
  source := memRead16 buf 1
  dest := memRead16 buf 3
  type := byteAt buf 5
  seq := byteAt buf 6
  payload := (buf.drop 7).take (len.toNat - 6)

/-- DECODE, with its tests in R96's order: missing bytes, then the sum, then a length below 6. -/
def decodeFrame (buf : List Byte) : Except RxError Packet :=
  match buf with
  | [] => .error .timeout
  | len :: _ =>
    if buf.length < len.toNat + 3 then .error (.shortRead len buf.length)
    else if chkVerify (buf.take (len.toNat + 1)) (memRead16 buf (len.toNat + 1)) = false then
      .error (.checksumError (chkSum (buf.take (len.toNat + 1))) (memRead16 buf (len.toNat + 1)))
    else if len.toNat < 6 then .error (.lengthError len)
    else .ok (packetOf len buf)

/-! ### Message kinds and modes (30_encoding.md R66, 10_state.md R13) -/

/-- The value of the `type` byte (R66). -/
def MsgKind.toByte : MsgKind → Byte
  | .requestId => 0x00#8
  | .responseId => 0x01#8
  | .ack => 0x02#8
  | .stop => 0x03#8
  | .configure => 0x04#8
  | .start => 0x05#8
  | .strike => 0x06#8
  | .error => 0x07#8
  | .defused => 0x08#8
  | .needy => 0x09#8
  | .readStatus => 0x0A#8
  | .status => 0x0B#8
  | .sound => 0x0C#8

/-- The kind a `type` byte selects; none for the reserved values 13 to 255 (R66, R67). -/
def MsgKind.ofByte (b : Byte) : Option MsgKind :=
  match b.toNat with
  | 0 => some .requestId
  | 1 => some .responseId
  | 2 => some .ack
  | 3 => some .stop
  | 4 => some .configure
  | 5 => some .start
  | 6 => some .strike
  | 7 => some .error
  | 8 => some .defused
  | 9 => some .needy
  | 10 => some .readStatus
  | 11 => some .status
  | 12 => some .sound
  | _ => none

/-- The 2-bit encoding of a mode (10_state.md R13). -/
def Mode.toBits : Mode → BitVec 2
  | .sleep => 0#2
  | .ready => 1#2
  | .armed => 2#2
  | .disarmed => 3#2

/-- The mode a 2-bit value encodes (10_state.md R13). -/
def Mode.ofBits (b : BitVec 2) : Mode :=
  if b = 0#2 then .sleep else if b = 1#2 then .ready else if b = 2#2 then .armed else .disarmed

/-- The instruction of a frame of kind `k` (30_encoding.md R77). -/
def Instr.ofKind (k : MsgKind) (m : Msg) : Instr :=
  match k with
  | .requestId => .msgRequestId m
  | .responseId => .msgResponseId m
  | .ack => .msgAck m
  | .stop => .msgStop m
  | .configure => .msgConfigure m
  | .start => .msgStart m
  | .strike => .msgStrike m
  | .error => .msgError m
  | .defused => .msgDefused m
  | .needy => .msgNeedy m
  | .readStatus => .msgReadStatus m
  | .status => .msgStatus m
  | .sound => .msgSound m

/-! ### The decoder -/

/-- Why bytes are no instruction. -/
inductive DecodeError where
  /-- The command port takes words of exactly one byte (30_encoding.md R70). -/
  | notOneWord
  /-- One of the 248 illegal command words (30_encoding.md R72); the step answers it with status ILLEGAL. -/
  | illegalCommand (w : Byte)
  /-- DECODE refused the byte sequence (40_frame_codec.md R96). -/
  | badFrame (e : RxError)
  /-- An accepted frame of a kind that selects no row (30_encoding.md R67); the step forwards it. -/
  | reservedKind (type : Byte)
  deriving DecidableEq, Repr

/-- `op = cmd[2:0]` (30_encoding.md R70). -/
def cmdOp (w : Byte) : BitVec 3 := w.extractLsb' 0 3

/-- `arg = cmd[4:3]` (30_encoding.md R70). -/
def cmdArg (w : Byte) : BitVec 2 := w.extractLsb' 3 2

/-- `rsv = cmd[7:5]` (30_encoding.md R70). -/
def cmdRsv (w : Byte) : BitVec 3 := w.extractLsb' 5 3

/-- The command map and its illegal words (30_encoding.md R71, R72). -/
def decodeCommand (w : Byte) : Except DecodeError Instr :=
  if cmdRsv w ≠ 0#3 then .error (.illegalCommand w)
  else if cmdOp w = 4#3 then .ok (.setMode (Mode.ofBits (cmdArg w)))
  else if cmdArg w ≠ 0#2 then .error (.illegalCommand w)
  else if cmdOp w = 0#3 then .ok .tick
  else if cmdOp w = 1#3 then .ok .unableToArm
  else if cmdOp w = 2#3 then .ok .disarmed
  else if cmdOp w = 3#3 then .ok .strike
  else .error (.illegalCommand w)

/-- A packet's fields beside its kind and its length. -/
def Packet.toMsg (p : Packet) : Msg := ⟨p.source, p.dest, p.seq, p.payload⟩

/-- Dispatch by the `type` byte alone (44_node_session.md R165). -/
def decodePacket (p : Packet) : Except DecodeError Instr :=
  match MsgKind.ofByte p.type with
  | some k => .ok (Instr.ofKind k p.toMsg)
  | none => .error (.reservedKind p.type)

/-- The instruction of a byte sequence at a port: a command word, or a received frame that DECODE accepts (R77). -/
def decode (port : Port) (bytes : List Byte) : Except DecodeError Instr :=
  match port, bytes with
  | .command, [w] => decodeCommand w
  | .command, _ => .error .notOneWord
  | .line, _ =>
    match decodeFrame bytes with
    | .ok p => decodePacket p
    | .error e => .error (.badFrame e)

/-- The packet of a frame given as the little-endian number `w` of its bytes from the length byte on (30_encoding.md R77):
`length = w[7:0]`, `source = w[23:8]`, `dest = w[39:24]`, `type = w[47:40]`, `seq_num = w[55:48]`, the payload above. -/
def tablePacket (w : Nat) : Packet where
  length := BitVec.ofNat 8 w
  source := BitVec.ofNat 16 (w / 2 ^ 8)
  dest := BitVec.ofNat 16 (w / 2 ^ 24)
  type := BitVec.ofNat 8 (w / 2 ^ 40)
  seq := BitVec.ofNat 8 (w / 2 ^ 48)
  payload := (List.range ((BitVec.ofNat 8 w).toNat - 6)).map (fun j => BitVec.ofNat 8 (w / 2 ^ (56 + 8 * j)))

/-- The instruction of a table word (30_encoding.md R77): a HOSTCMD row gives the 8-bit command word, a FRAME row the
header of a frame that DECODE has accepted, so the checksum is no part of the word (notes/assumptions/9.md). -/
def decodeTableWord (nbits w : Nat) : Option Instr :=
  if nbits ≤ 8 then (decodeCommand (BitVec.ofNat 8 w)).toOption
  else (decodePacket (tablePacket w)).toOption

/-! ### The encoder -/

/-- Where an instruction enters the block (30_encoding.md R77). -/
def Instr.port : Instr → Port
  | .tick => .command
  | .unableToArm => .command
  | .disarmed => .command
  | .strike => .command
  | .setMode _ => .command
  | .msgRequestId _ => .line
  | .msgResponseId _ => .line
  | .msgAck _ => .line
  | .msgStop _ => .line
  | .msgConfigure _ => .line
  | .msgStart _ => .line
  | .msgStrike _ => .line
  | .msgError _ => .line
  | .msgDefused _ => .line
  | .msgNeedy _ => .line
  | .msgReadStatus _ => .line
  | .msgStatus _ => .line
  | .msgSound _ => .line

/-- `rsv = 0` in bits 7:5, `arg` in bits 4:3, `op` in bits 2:0 (30_encoding.md R70). -/
def commandWord (arg : BitVec 2) (op : BitVec 3) : Byte := 0#3 ++ arg ++ op

/-- The frame of a message of kind `k` (30_encoding.md R60, 40_frame_codec.md R95). -/
def encodeMsg (k : MsgKind) (m : Msg) : List Byte := frameBytes m.source m.dest k.toByte m.seq m.payload

/-- The bytes of a well-formed instruction at its port: a command word (30_encoding.md R71) or a whole frame (R60, R66). -/
def encode : Instr → List Byte
  | .tick => [commandWord 0#2 0#3]
  | .unableToArm => [commandWord 0#2 1#3]
  | .disarmed => [commandWord 0#2 2#3]
  | .strike => [commandWord 0#2 3#3]
  | .setMode m => [commandWord m.toBits 4#3]
  | .msgRequestId m => encodeMsg .requestId m
  | .msgResponseId m => encodeMsg .responseId m
  | .msgAck m => encodeMsg .ack m
  | .msgStop m => encodeMsg .stop m
  | .msgConfigure m => encodeMsg .configure m
  | .msgStart m => encodeMsg .start m
  | .msgStrike m => encodeMsg .strike m
  | .msgError m => encodeMsg .error m
  | .msgDefused m => encodeMsg .defused m
  | .msgNeedy m => encodeMsg .needy m
  | .msgReadStatus m => encodeMsg .readStatus m
  | .msgStatus m => encodeMsg .status m
  | .msgSound m => encodeMsg .sound m

end Sys2Proof
end

