-- ==== Sys2Proof/Machine/State.lean ====
section
/-! DEFINITION. The state of one OKTANE-BL instance as plain data (10_state.md), the reasons a step can stop, and the
state after reset. -/

namespace Sys2Proof.Machine

/-- The host commands that request a send (44_node_session.md R156 to R158). -/
inductive SendCmd where
  | unableToArm
  | disarmed
  | strike
  deriving DecidableEq, Repr

/-- A send request: a backlog entry, and the operands of QUEUE_SEND (10_state.md R19). -/
structure Request where
  dest : Half
  type : Byte
  pay : Payload
  deriving DecidableEq, Repr

/-- The pending slot's contents: PEND_DEST, PEND_TYPE, PEND_SEQ, PEND_PAY (10_state.md R15, R16). -/
structure Pending where
  dest : Half
  type : Byte
  seq : Byte
  pay : Payload
  deriving DecidableEq, Repr

/-- Who called SEND_GATED, hence what follows the transmission (42_backoff_arbiter.md R125). -/
inductive Sender where
  /-- START_PENDING from QUEUE_SEND in a host command (43_delivery_manager.md R136). -/
  | request (op : SendCmd)
  /-- START_PENDING from ACK_HANDLE, inside a TICK (43_delivery_manager.md R140). -/
  | promoted
  /-- RETRY_CHECK, inside a TICK (43_delivery_manager.md R139). -/
  | retry
  deriving DecidableEq, Repr

/-- Who called POLL (41_bus_transport.md R110). -/
inductive Poller where
  /-- TICK: a packet is dispatched. -/
  | tick
  /-- SEND_GATED's drain: a packet is dropped (42_backoff_arbiter.md R126). -/
  | drain (k : Sender)
  deriving DecidableEq, Repr

/-- Which call of `env.now()` the block is at (60_exceptions.md R209). -/
inductive TimePoint where
  /-- RETRY_CHECK's comparison. -/
  | retryTest
  /-- Arming PEND_NEXT_RETRY after a transmission. -/
  | arm (k : Sender)
  deriving DecidableEq, Repr

/-- CTL, where inside a host command the block is (10_state.md R26). RX_IDX is the number of bytes `rxBody` holds, TX_IDX
the index of `txByte`. `dispatch` and `arbDraw` are the model's own points (notes/assumptions/15.md). -/
inductive Ctl where
  | idle
  | rxSample (p : Poller)
  | rxWaitEnd (p : Poller)
  | rxLen (p : Poller)
  /-- `len` is the length byte received, `buf` the bytes received so far, the length byte included. -/
  | rxBody (p : Poller) (len : Byte) (buf : List Byte)
  /-- TICK's POLL has returned a packet and RX_DISPATCH is about to run. -/
  | dispatch (pkt : Packet)
  | arbSample (k : Sender)
  /-- At `env.draw_backoff()`. -/
  | arbDraw (k : Sender)
  | arbSleep (k : Sender) (d : Nat)
  | txSettle (k : Sender)
  | txByte (k : Sender) (idx : Nat)
  | timeSample (t : TimePoint)
  deriving DecidableEq, Repr

/-- Which wait of POLL ran out (60_exceptions.md R193). -/
inductive Stage where
  | activity
  | length
  deriving DecidableEq, Repr

/-- The events with their information (60_exceptions.md R190); `Event.code` gives the code of each. -/
inductive Event where
  | checksumError (s c : Half)
  | shortRead (len : Byte) (got : Nat)
  | timeout (stage : Stage)
  | lengthError (len : Byte)
  | deliveryTimeout (seq : Byte)
  | busBusy
  | txqFull
  | terminalReject (op : SendCmd)
  | illegalModeEdge (source target : Mode)
  | illegalCmd (w : Byte)
  | acked (seq : Byte)
  | ackIgnored (seq : Byte)
  | drained (packet : Bool)
  deriving DecidableEq, Repr

/-- The status of a response (30_encoding.md R73); `Status.code` gives the code of each. -/
inductive Status where
  | ok
  | busy
  | rejected
  | badEdge
  | illegal
  deriving DecidableEq, Repr

/-- A forwarded packet (30_encoding.md R74). -/
structure Forwarded where
  source : Half
  dest : Half
  type : Byte
  seq : Byte
  plen : Byte
  payload : List Byte
  reserved : Bool
  deriving DecidableEq, Repr

/-- The response to one host command (30_encoding.md R73). -/
structure Response where
  status : Status
  events : List Event
  fwd : Option Forwarded
  deriving DecidableEq, Repr

/-- The answer to `env.wait_activity_end` in the burst view (41_bus_transport.md R111): activity did not end in time, or
it ended and the receive path delivers these bytes. -/
inductive Burst where
  | timedOut
  | bytes (bs : List Byte)
  deriving DecidableEq, Repr

/-- One call of an env primitive, with its argument and its answer (00_scope.md R6). -/
inductive EnvCall where
  | lineActive (answer : Bool)
  | waitActivityEnd (bound : Nat) (ended : Bool)
  | rxByte (bound : Nat) (answer : Option Byte)
  | setSendIntent (v : Bool)
  | txByte (b : Byte)
  | sleep (d : Nat)
  | drawBackoff (answer : Nat)
  | now (answer : Nat)
  deriving DecidableEq, Repr

/-- The state of one instance (10_state.md R10, R23 to R27), its parameters (00_scope.md R3), and the inputs and outputs
of the world outside it (00_scope.md R6, R7). -/
structure State where
  /-- ADDR (R11). -/
  addr : Half
  /-- LAST_SEQ (R12). -/
  lastSeq : Byte
  /-- MODE (R13). -/
  mode : Mode
  /-- The pending slot; PEND_V is `isSome` (R14 to R16). -/
  pend : Option Pending
  /-- PEND_NEXT_RETRY (R17). -/
  pendNextRetry : Nat
  /-- BQ, the head first (R19). -/
  bq : List Request
  /-- SEND_INTENT (R20). -/
  sendIntent : Bool
  /-- CTL (R26). -/
  ctl : Ctl
  /-- TXBUF (R23). -/
  txbuf : List Byte
  /-- RXBUF, the next byte to read first (R23). -/
  rxbuf : List Byte
  /-- CHK_ACC (R24). -/
  chkAcc : Half
  /-- The events of the host command being executed, in the order raised (00_scope.md R5). -/
  events : List Event
  /-- What RX_DISPATCH returned, for the TICK's response (44_node_session.md R155). -/
  fwd : Option Forwarded
  /-- The last answer of `env.now()` (R27). -/
  time : Nat
  /-- The instance's parameters, never written (R22). -/
  cfg : Params
  /-- Input: the reset input is asserted after this many more wait points; none: it is not asserted
  (70_reset_and_hazards.md R220, notes/assumptions/10.md). -/
  rst : Option Nat
  /-- Input: the command words the host presents, the next one first (30_encoding.md R70). -/
  cmdQ : List Byte
  /-- Input: the coming answers of `env.line_active()`, true for busy. -/
  lineQ : List Bool
  /-- Input: the coming bursts (41_bus_transport.md R111). -/
  burstQ : List Burst
  /-- Input: the coming answers of `env.draw_backoff()`. -/
  drawQ : List Nat
  /-- Input: the coming answers of `env.now()`. -/
  nowQ : List Nat
  /-- Output: the env calls made so far, oldest first. -/
  trace : List EnvCall
  /-- Output: the responses presented so far, oldest first. -/
  rsps : List Response
  deriving DecidableEq, Repr

/-- A fault stops the machine. This hardware has none: every error of the spec is an event in a response, "None of these
are fatal to the control loop" (60_exceptions.md R204, R205), so the type has no constructor. -/
inductive Fault where
  deriving DecidableEq, Repr

/-- Why the model gives no meaning. -/
inductive Refusal where
  /-- Raised by an arm of exec whose instruction has no meaning yet. Safe. -/
  | notModelled (mnemonic : String)
  /-- Raised by a host command's meaning while another command is running: outside the spec, the block has no move for
  it (70_reset_and_hazards.md R221, 93_implementation_defined.md U9). The step never does it. Safe. -/
  | commandWhileRunning
  /-- Raised by a message's meaning when no TICK is about to dispatch an accepted frame: RX_DISPATCH is invoked only by
  TICK, on a packet DECODE accepted (44_node_session.md R164, 30_encoding.md R77). The step never does it. Safe. -/
  | noFrameToDispatch
  deriving DecidableEq, Repr

/-- The state after reset (10_state.md R31). The spec states ADDR, LAST_SEQ, MODE, PEND_V, BQ, SEND_INTENT, CTL and RXBUF;
the others are the model's (notes/assumptions/5.md, 7.md). -/
def State.reset : State where
  addr := Config.params.nodeAddr
  lastSeq := Config.seqReset
  mode := .sleep
  pend := none
  pendNextRetry := 0
  bq := []
  sendIntent := false
  ctl := .idle
  txbuf := []
  rxbuf := []
  chkAcc := 0#16
  events := []
  fwd := none
  time := 0
  cfg := Config.params
  rst := none
  cmdQ := []
  lineQ := []
  burstQ := []
  drawQ := []
  nowQ := []
  trace := []
  rsps := []

end Sys2Proof.Machine
end

