-- ==== Sys2Proof/Machine/Flags.lean ====
section
/-! DEFINITION. The conditions the block acts on: it has no condition codes and no sticky flags (10_state.md R21). -/

namespace Sys2Proof.Machine

/-- PEND_V (10_state.md R14). -/
def State.pendV (s : State) : Bool := s.pend.isSome

/-- PEND_PLEN, the length held beside PEND_PAY (10_state.md R15). -/
def Pending.plen (q : Pending) : Byte := BitVec.ofNat 8 q.pay.bytes.length

/-- The comparison `env.now() >= PEND_NEXT_RETRY` (43_delivery_manager.md R139). -/
def State.retryDue (s : State) (t : Nat) : Bool := decide (s.pendNextRetry ≤ t)

/-- A received ACK matches on its sequence number alone (43_delivery_manager.md R140). -/
def Pending.acknowledgedBy (q : Pending) (seq : Byte) : Bool := q.seq == seq

/-- The terminal-state guard `MODE == 3` (44_node_session.md R157, R158). -/
def State.terminal (s : State) : Bool := s.mode == .disarmed

/-- Room in the backlog, `len(BQ) < BACKLOG_DEPTH` (43_delivery_manager.md R136). -/
def State.backlogRoom (s : State) : Bool := decide (s.bq.length < s.cfg.backlogDepth)

/-- The two edges SET_MODE accepts (44_node_session.md R160). -/
def legalEdge : Mode → Mode → Bool
  | .sleep, .ready => true
  | .ready, .armed => true
  | _, _ => false

/-- `(LAST_SEQ + 1) mod 256` (43_delivery_manager.md R137, R141). -/
def State.nextSeq (s : State) : Byte := s.lastSeq + 1#8

end Sys2Proof.Machine
end

