-- ==== Sys2Proof/Machine/Operands.lean ====
section
/-! DEFINITION. Where operations get their operands: the answers of the env primitives (00_scope.md R6) and the fields of
received packets (30_encoding.md R74). An answer that the environment has not given yet is `none`: the block stays at
its wait point (00_scope.md R7, notes/assumptions/2.md). -/

namespace Sys2Proof.Machine

/-- Records one env call in the trace. -/
def State.call (s : State) (c : EnvCall) : State := { s with trace := s.trace ++ [c] }

/-- `env.line_active()`. -/
def takeLine (s : State) : Option (Bool × State) :=
  match s.lineQ with
  | [] => none
  | b :: rest => some (b, { s with lineQ := rest }.call (.lineActive b))

/-- `env.wait_activity_end(ACTIVITY_TIMEOUT)` in the burst view: when activity ends, RXBUF holds what it held and the
bytes of the burst after it (10_state.md R23, 41_bus_transport.md R111, R113). -/
def takeBurst (s : State) : Option (Bool × State) :=
  match s.burstQ with
  | [] => none
  | .timedOut :: rest =>
    some (false, { s with burstQ := rest }.call (.waitActivityEnd s.cfg.activityTimeout false))
  | .bytes bs :: rest =>
    some (true, { s with burstQ := rest, rxbuf := s.rxbuf ++ bs }.call (.waitActivityEnd s.cfg.activityTimeout true))

/-- `env.rx_byte(READ_TIMEOUT)`: the next byte of RXBUF, or None when it is empty (10_state.md R23). -/
def takeByte (s : State) : Option Byte × State :=
  match s.rxbuf with
  | [] => (none, s.call (.rxByte s.cfg.readTimeout none))
  | b :: rest => (some b, { s with rxbuf := rest }.call (.rxByte s.cfg.readTimeout (some b)))

/-- The closed interval a backoff draw lies in (42_backoff_arbiter.md R125); a legal answer is taken as it is
(notes/assumptions/3.md). -/
def clampDraw (cfg : Params) (x : Nat) : Nat := max cfg.backoffMin (min x cfg.backoffMax)

/-- `env.draw_backoff()`. -/
def takeDraw (s : State) : Option (Nat × State) :=
  match s.drawQ with
  | [] => none
  | x :: rest =>
    some (clampDraw s.cfg x, { s with drawQ := rest }.call (.drawBackoff (clampDraw s.cfg x)))

/-- `env.now()`: successive answers never decrease (00_scope.md R6); a legal answer is taken as it is
(notes/assumptions/3.md). -/
def takeNow (s : State) : Option (Nat × State) :=
  match s.nowQ with
  | [] => none
  | x :: rest =>
    some (max s.time x, { s with nowQ := rest, time := max s.time x }.call (.now (max s.time x)))

/-- The packet handed to the host: kind `type`, the message's fields, `fwd_plen` and `fwd_reserved`
(30_encoding.md R74). -/
def Forwarded.of (type : Byte) (m : Msg) : Forwarded where
  source := m.source
  dest := m.dest
  type := type
  seq := m.seq
  plen := BitVec.ofNat 8 m.payload.length
  payload := m.payload
  reserved := decide (13 ≤ type.toNat)

/-- A send request to the controller with an empty payload: the operands of QUEUE_SEND in the three commands
(44_node_session.md R156 to R158). -/
def toController (k : MsgKind) : Request := ⟨Config.ctrlAddr, k.toByte, ⟨[], Nat.zero_le _⟩⟩

end Sys2Proof.Machine
end

