-- ==== Sys2Proof/Machine/Ops.lean ====
section
/-! DEFINITION. Operations every family shares: recording an event, answering a command, the guards of the two fetch
points, filling TXBUF, and the reset input. The block takes no exception: raising an event is its one counterpart
(60_exceptions.md R204). -/

namespace Sys2Proof.Machine

/-- CTL moves to `c` (10_state.md R26). -/
def goto (c : Ctl) (s : State) : State := { s with ctl := c }

/-- Records an event in the running command's list (00_scope.md R5, 60_exceptions.md R190); it changes nothing else. -/
def emit (e : Event) (s : State) : State := { s with events := s.events ++ [e] }

/-- The code of an event (60_exceptions.md R190). -/
def Event.code : Event → Nat
  | .checksumError _ _ => 1
  | .shortRead _ _ => 2
  | .timeout _ => 3
  | .lengthError _ => 4
  | .deliveryTimeout _ => 5
  | .busBusy => 6
  | .txqFull => 7
  | .terminalReject _ => 8
  | .illegalModeEdge _ _ => 9
  | .illegalCmd _ => 10
  | .acked _ => 11
  | .ackIgnored _ => 12
  | .drained _ => 13

/-- `status[2:0]` (30_encoding.md R73). -/
def Status.code : Status → BitVec 3
  | .ok => 0#3
  | .busy => 1#3
  | .rejected => 2#3
  | .badEdge => 3#3
  | .illegal => 4#3

/-- `status[2:0]` of a response (30_encoding.md R73). -/
def Response.statusCode (r : Response) : BitVec 3 := r.status.code

/-- The codes of a response's events, in the order raised (30_encoding.md R73, 60_exceptions.md R190). -/
def Response.eventCodes (r : Response) : List Nat := r.events.map Event.code

/-- Ends the running command: the response carries the status, the events in the order raised and the forwarded packet
if there is one, and CTL returns to IDLE (00_scope.md R5, 30_encoding.md R73). -/
def respond (status : Status) (s : State) : State :=
  { s with ctl := .idle, rsps := s.rsps ++ [⟨status, s.events, s.fwd⟩], events := [], fwd := none }

/-- Empties RXBUF (41_bus_transport.md R113, R116). -/
def flush (s : State) : State := { s with rxbuf := [] }

/-- Accepts a host command: its event list starts empty and nothing is forwarded yet (30_encoding.md R73,
44_node_session.md R155). -/
def accept (s : State) : State := { s with events := [], fwd := none }

/-- A host command runs from its acceptance to its response without another intervening (00_scope.md R7); one issued
earlier is outside the spec (70_reset_and_hazards.md R221). -/
def atIdle (s : State) (run : State → State) : Host.Outcome State Fault Refusal :=
  match s.ctl with
  | .idle => .next (run (accept s))
  | _ => .refused .commandWhileRunning

/-- RX_DISPATCH is invoked only by TICK, on a packet that DECODE accepted (44_node_session.md R164). -/
def atDispatch (s : State) (run : State → State) : Host.Outcome State Fault Refusal :=
  match s.ctl with
  | .dispatch _ => .next (run s)
  | _ => .refused .noFrameToDispatch

/-- RX_DISPATCH's first line, "Node Session updates last-seen sequence" (44_node_session.md R164). -/
def observeSeq (seq : Byte) (s : State) : State := if Config.seqObserve then { s with lastSeq := seq } else s

/-- The packet RX_DISPATCH returns is kept for the TICK's response (44_node_session.md R155, R164). -/
def keepForward (f : Forwarded) (s : State) : State := { s with fwd := some f }

/-- CHK_SUM runs over `bytes`, and CHK_ACC is left with their sum (10_state.md R24, 40_frame_codec.md R90). -/
def sumBytes (bytes : List Byte) (s : State) : State := { s with chkAcc := chkSum bytes }

/-- SEND_INTENT takes a level, on the line too (10_state.md R20, 41_bus_transport.md R115). -/
def setIntent (v : Bool) (s : State) : State := { s with sendIntent := v }.call (.setSendIntent v)

/-- ENCODE into TXBUF (10_state.md R23); CHK_ACC ends with the body's sum (10_state.md R24, 40_frame_codec.md R95). -/
def loadFrame (dest : Half) (type seq : Byte) (pay : Payload) (s : State) : State :=
  { s with
    txbuf := encodeFrame s.addr dest type seq pay
    chkAcc := chkSum (frameBody s.addr dest type seq pay.bytes) }

/-- The reset input: the state of 10_state.md R31, SEND_INTENT released, the running command abandoned without a response
(70_reset_and_hazards.md R220). The world outside (answers, commands presented, clock, what was seen on the line and
responded before) and the instance's parameters are no state of the block and stay. -/
def hardReset (s : State) : State :=
  { State.reset with
    cfg := s.cfg
    addr := s.cfg.nodeAddr
    time := s.time
    cmdQ := s.cmdQ
    lineQ := s.lineQ
    burstQ := s.burstQ
    drawQ := s.drawQ
    nowQ := s.nowQ
    trace := if s.sendIntent then s.trace ++ [.setSendIntent false] else s.trace
    rsps := s.rsps }

end Sys2Proof.Machine
end

