-- ==== Sys2Proof/Machine/Delivery.lean ====
section
/-! DEFINITION. DLV, the sequence-number tracker and ACK state machine: QUEUE_SEND, START_PENDING, RETRY_CHECK, ACK_HANDLE
(43_delivery_manager.md). -/

namespace Sys2Proof.Machine

/-- SEND_GATED(ENCODE(...)) is entered: the frame is in TXBUF and the block is at the arbiter's line sample
(42_backoff_arbiter.md R125). -/
def sendGated (k : Sender) (q : Pending) (s : State) : State :=
  goto (.arbSample k) (loadFrame q.dest q.type q.seq q.pay s)

/-- START_PENDING up to SEND_GATED's first wait point (43_delivery_manager.md R137): the number is allocated and the slot
filled before the transmission; PEND_NEXT_RETRY is written after it (`armed`). -/
def startPending (k : Sender) (r : Request) (s : State) : State :=
  sendGated k ⟨r.dest, r.type, s.nextSeq, r.pay⟩
    { s with lastSeq := s.nextSeq, pend := some ⟨r.dest, r.type, s.nextSeq, r.pay⟩ }

/-- What a sending command does once QUEUE_SEND has returned OK: DISARMED sets MODE (44_node_session.md R156 to R158). -/
def requestDone (op : SendCmd) (s : State) : State :=
  match op with
  | .unableToArm => respond .ok s
  | .strike => respond .ok s
  | .disarmed => respond .ok { s with mode := .disarmed }

/-- QUEUE_SEND for the host command `op` (43_delivery_manager.md R136). -/
def queueSend (op : SendCmd) (r : Request) (s : State) : State :=
  match s.pend with
  | none => startPending (.request op) r s
  | some _ =>
    if s.backlogRoom then requestDone op { s with bq := s.bq ++ [r] }
    else respond .busy (emit .txqFull s)

/-- RETRY_CHECK up to its time sample, the rest of a TICK after POLL and dispatch (43_delivery_manager.md R139,
44_node_session.md R155): with nothing pending no sample is taken and the TICK answers OK. -/
def retryCheck (s : State) : State :=
  match s.pend with
  | none => respond .ok s
  | some _ => goto (.timeSample .retryTest) s

/-- RETRY_CHECK from its time sample `t` on (43_delivery_manager.md R139). -/
def retryTest (t : Nat) (s : State) : State :=
  match s.pend with
  | none => respond .ok s
  | some q =>
    if s.retryDue t then sendGated .retry q (emit (.deliveryTimeout q.seq) s)
    else respond .ok s

/-- `PEND_NEXT_RETRY <- t + RETRY_INTERVAL` (43_delivery_manager.md R137, R139). -/
def armRetry (t : Nat) (s : State) : State := { s with pendNextRetry := t + s.cfg.retryInterval }

/-- The end of a transmission of the pending packet: PEND_NEXT_RETRY is armed from the sample `t` (43_delivery_manager.md
R137, R139), and the caller goes on. -/
def armed (k : Sender) (t : Nat) (s : State) : State :=
  match k with
  | .request op => requestDone op (armRetry t s)
  | .promoted => retryCheck (armRetry t s)
  | .retry => respond .ok (armRetry t s)

/-- `env.now()` at one of the three sampling points (60_exceptions.md R209). -/
def atTimeSample (p : TimePoint) (s : State) : Option State :=
  match takeNow s with
  | none => none
  | some (t, s') =>
    match p with
    | .retryTest => some (retryTest t s')
    | .arm k => some (armed k t s')

/-- A matching ACK: the slot is cleared, and the head of the backlog, if any, is promoted at once
(43_delivery_manager.md R140). -/
def acknowledge (seq : Byte) (s : State) : State :=
  match s.bq with
  | [] => retryCheck (emit (.acked seq) { s with pend := none })
  | r :: rest => startPending .promoted r (emit (.acked seq) { s with pend := none, bq := rest })

/-- ACK_HANDLE, and the TICK's RETRY_CHECK after it (43_delivery_manager.md R140). -/
def ackHandle (seq : Byte) (s : State) : State :=
  match s.pend with
  | none => retryCheck (emit (.ackIgnored seq) s)
  | some q =>
    if q.acknowledgedBy seq then acknowledge seq s
    else retryCheck (emit (.ackIgnored seq) s)

end Sys2Proof.Machine
end

