-- ==== Sys2Proof/Machine/Transport.lean ====
section
/-! DEFINITION. SERDES, the bus transport: POLL (the deserializer) and TRANSMIT (the serializer), one definition per wait
point (41_bus_transport.md R110, R115). -/

namespace Sys2Proof.Machine

/-- The event of a DECODE error (40_frame_codec.md R96, 60_exceptions.md R191 to R194). -/
def rxEvent : RxError → Event
  | .timeout => .timeout .length
  | .shortRead len got => .shortRead len got
  | .checksumError s c => .checksumError s c
  | .lengthError len => .lengthError len

/-- POLL returns `r` to its caller: TICK dispatches a packet or goes on to RETRY_CHECK (44_node_session.md R155);
SEND_GATED drops it, records DRAINED and draws its backoff (42_backoff_arbiter.md R125, R126). -/
def pollDone (p : Poller) (r : Option Packet) (s : State) : State :=
  match p with
  | .tick =>
    match r with
    | some pkt => goto (.dispatch pkt) s
    | none => retryCheck s
  | .drain k => goto (.arbDraw k) (emit (.drained r.isSome) s)

/-- `raise`: the event is recorded, RXBUF emptied, and POLL ends with Nothing (00_scope.md R5, 41_bus_transport.md R113). -/
def pollRaise (p : Poller) (e : Event) (s : State) : State := pollDone p none (emit e (flush s))

/-- The bytes of a received sequence that CHK_SUM runs over, offsets 0 to `length` (40_frame_codec.md R96). -/
def summed (buf : List Byte) : List Byte := buf.take ((byteAt buf 0).toNat + 1)

/-- All bytes are in: RXBUF is emptied and DECODE judges them; CHK_ACC ends with their sum (41_bus_transport.md R110,
10_state.md R24). -/
def pollDecode (p : Poller) (buf : List Byte) (s : State) : State :=
  match decodeFrame buf with
  | .ok pkt => pollDone p (some pkt) (flush (sumBytes (summed buf) s))
  | .error e => pollRaise p (rxEvent e) (sumBytes (summed buf) s)

/-- RX_SAMPLE: no activity, nothing received (R110). -/
def atRxSample (p : Poller) (s : State) : Option State :=
  match takeLine s with
  | none => none
  | some (false, s') => some (pollDone p none s')
  | some (true, s') => some (goto (.rxWaitEnd p) s')

/-- RX_WAIT_END: activity ends, or ACTIVITY_TIMEOUT runs out (R110). -/
def atRxWaitEnd (p : Poller) (s : State) : Option State :=
  match takeBurst s with
  | none => none
  | some (false, s') => some (pollRaise p (.timeout .activity) s')
  | some (true, s') => some (goto (.rxLen p) s')

/-- RX_LEN: the length byte (R110). -/
def atRxLen (p : Poller) (s : State) : State :=
  match takeByte s with
  | (none, s') => pollRaise p (.timeout .length) s'
  | (some len, s') => goto (.rxBody p len [len]) s'

/-- RX_BODY: byte RX_IDX of `length + 2` further bytes (R110). -/
def atRxBody (p : Poller) (len : Byte) (buf : List Byte) (s : State) : State :=
  match takeByte s with
  | (none, s') => pollRaise p (.shortRead len buf.length) s'
  | (some b, s') =>
    if buf.length + 1 < len.toNat + 3 then goto (.rxBody p len (buf ++ [b])) s'
    else pollDecode p (buf ++ [b]) s'

/-- TRANSMIT begins: SEND_INTENT rises (41_bus_transport.md R115, 10_state.md R20). -/
def beginTransmit (k : Sender) (s : State) : State :=
  goto (.txSettle k) (setIntent true s)

/-- TX_SETTLE: the pre-amble, `env.sleep(SETTLE_TIME)` (R115). -/
def atTxSettle (k : Sender) (s : State) : State :=
  goto (.txByte k 0) (s.call (.sleep s.cfg.settleTime))

/-- TRANSMIT ends: SEND_INTENT falls, RXBUF is emptied (R115, R116), and the caller samples the time (43_delivery_manager.md
R137, R139). -/
def endTransmit (k : Sender) (s : State) : State :=
  goto (.timeSample (.arm k)) (flush (setIntent false s))

/-- TX_BYTE: `env.tx_byte` of byte TX_IDX of TXBUF, in offset order (R115). -/
def atTxByte (k : Sender) (idx : Nat) (s : State) : State :=
  match s.txbuf[idx]? with
  | none => endTransmit k s
  | some b =>
    if idx + 1 < s.txbuf.length then goto (.txByte k (idx + 1)) (s.call (.txByte b))
    else endTransmit k (s.call (.txByte b))

end Sys2Proof.Machine
end

