-- ==== Sys2Proof/Machine/Arbiter.lean ====
section
/-! DEFINITION. ARB, listen-before-send with randomized backoff: SEND_GATED, one definition per wait point
(42_backoff_arbiter.md R125). -/

namespace Sys2Proof.Machine

/-- ARB_SAMPLE: an idle line is transmitted on at once; a busy one is drained first (R125). -/
def atArbSample (k : Sender) (s : State) : Option State :=
  match takeLine s with
  | none => none
  | some (false, s') => some (beginTransmit k s')
  | some (true, s') => some (goto (.rxSample (.drain k)) (emit .busBusy s'))

/-- The backoff draw, taken afresh in every iteration (R125). -/
def atArbDraw (k : Sender) (s : State) : Option State :=
  match takeDraw s with
  | none => none
  | some (d, s') => some (goto (.arbSleep k d) s')

/-- ARB_SLEEP: `env.sleep(d)`, then the line is sampled again (R125). -/
def atArbSleep (k : Sender) (d : Nat) (s : State) : State :=
  goto (.arbSample k) (s.call (.sleep d))

end Sys2Proof.Machine
end

