-- ==== Sys2Proof/Machine/Sequencer.lean ====
section
/-! DEFINITION. What sequences the block inside a host command (10_state.md R26, R30): from one wait point to the next,
and on until the command has answered, a frame is to be dispatched, or an answer is missing. -/

namespace Sys2Proof.Machine

/-- Passes the wait point CTL names. `none`: there is none to pass (IDLE; a frame to dispatch), or the environment has not
answered yet. -/
def passCtl (s : State) : Option State :=
  match s.ctl with
  | .idle => none
  | .rxSample p => atRxSample p s
  | .rxWaitEnd p => atRxWaitEnd p s
  | .rxLen p => some (atRxLen p s)
  | .rxBody p len buf => some (atRxBody p len buf s)
  | .dispatch _ => none
  | .arbSample k => atArbSample k s
  | .arbDraw k => atArbDraw k s
  | .arbSleep k d => some (atArbSleep k d s)
  | .txSettle k => some (atTxSettle k s)
  | .txByte k idx => some (atTxByte k idx s)
  | .timeSample t => atTimeSample t s

/-- One wait point fewer before the reset input is asserted (70_reset_and_hazards.md R220). -/
def countDown : Option Nat → Option Nat
  | some (n + 1) => some n
  | r => r

/-- One wait point passed; none when the reset input is asserted, for then the step resets. -/
def advance (s : State) : Option State :=
  match s.rst with
  | some 0 => none
  | _ => (passCtl s).map (fun t => { t with rst := countDown s.rst })

/-- Passes at most `n` wait points. -/
def settleN : Nat → State → State
  | 0, s => s
  | n + 1, s =>
    match advance s with
    | none => s
    | some t => settleN n t

/-- The answers the environment has given and the block has not used. -/
def State.answers (s : State) : Nat := s.lineQ.length + s.burstQ.length + s.drawQ.length + s.nowQ.length

/-- More wait points than can be passed on the answers given: between two answers the block passes at most the 258 bytes of
a frame and a few points more. -/
def State.reach (s : State) : Nat := 262 * (s.answers + 1) + s.txbuf.length + 4

/-- Runs the command in progress as far as the environment's answers go: to its response, to a frame to dispatch, to a wait
point whose answer is missing, or to where the reset input is asserted. -/
def settle (s : State) : State := settleN s.reach s

end Sys2Proof.Machine
end

