-- ==== Sys2Proof/Machine/Session.lean ====
section
/-! DEFINITION. The five host commands (44_node_session.md R155 to R160). -/

namespace Sys2Proof.Machine

/-- TICK (R155): POLL, then the dispatch of a packet (the next step's instruction) or RETRY_CHECK. -/
def execTick (s : State) : Host.Outcome State Fault Refusal :=
  atIdle s fun s => settle (goto (.rxSample .tick) s)

/-- UNABLE_TO_ARM (R156): ERROR to the controller; MODE is not looked at. -/
def execUnableToArm (s : State) : Host.Outcome State Fault Refusal :=
  atIdle s fun s => settle (queueSend .unableToArm (toController .error) s)

/-- DISARMED (R158): refused in the terminal mode; else DEFUSED to the controller, then MODE becomes DISARMED. -/
def execDisarmed (s : State) : Host.Outcome State Fault Refusal :=
  atIdle s fun s =>
    if s.terminal then respond .rejected (emit (.terminalReject .disarmed) s)
    else settle (queueSend .disarmed (toController .defused) s)

/-- STRIKE (R157): refused in the terminal mode; else STRIKE to the controller, MODE unchanged. -/
def execStrike (s : State) : Host.Outcome State Fault Refusal :=
  atIdle s fun s =>
    if s.terminal then respond .rejected (emit (.terminalReject .strike) s)
    else settle (queueSend .strike (toController .strike) s)

/-- SET_MODE m (R160): the two drawn edges, nothing else. -/
def execSetMode (m : Mode) (s : State) : Host.Outcome State Fault Refusal :=
  atIdle s fun s =>
    if legalEdge s.mode m then respond .ok { s with mode := m }
    else respond .badEdge (emit (.illegalModeEdge s.mode m) s)

/-- An illegal command word: status ILLEGAL, event ILLEGAL_CMD, no effect (30_encoding.md R72, 60_exceptions.md R200). -/
def rejectWord (w : Byte) (s : State) : State := respond .illegal (emit (.illegalCmd w) (accept s))

end Sys2Proof.Machine
end

