-- ==== Sys2Proof/Machine/Messages.lean ====
section
/-! DEFINITION. RX_DISPATCH's reaction to a received frame of each kind (44_node_session.md R164 to R183), and the rest of
the TICK up to its next wait point. -/

namespace Sys2Proof.Machine

/-- A frame that is not an ACK: LAST_SEQ follows it and the packet is kept for the TICK's response (R164); the TICK goes on
to RETRY_CHECK (R155). -/
def forward (type : Byte) (m : Msg) (s : State) : State :=
  retryCheck (keepForward (Forwarded.of type m) (observeSeq m.seq s))

/-- ACK (R172): LAST_SEQ follows it, then ACK_HANDLE consumes it (43_delivery_manager.md R140). -/
def execMsgAck (m : Msg) (s : State) : Host.Outcome State Fault Refusal :=
  atDispatch s fun s => ackHandle m.seq (observeSeq m.seq s)

/-- REQUEST_ID (R170): forwarded to the host. -/
def execMsgRequestId (m : Msg) (s : State) : Host.Outcome State Fault Refusal :=
  atDispatch s fun s => forward MsgKind.requestId.toByte m s

/-- RESPONSE_ID (R171): forwarded to the host. -/
def execMsgResponseId (m : Msg) (s : State) : Host.Outcome State Fault Refusal :=
  atDispatch s fun s => forward MsgKind.responseId.toByte m s

/-- STOP: MODE is not changed (R173): forwarded to the host. -/
def execMsgStop (m : Msg) (s : State) : Host.Outcome State Fault Refusal :=
  atDispatch s fun s => forward MsgKind.stop.toByte m s

/-- CONFIGURE: MODE is left to the host's SET_MODE READY (R174): forwarded to the host. -/
def execMsgConfigure (m : Msg) (s : State) : Host.Outcome State Fault Refusal :=
  atDispatch s fun s => forward MsgKind.configure.toByte m s

/-- START: MODE is left to the host's SET_MODE ARMED (R175): forwarded to the host. -/
def execMsgStart (m : Msg) (s : State) : Host.Outcome State Fault Refusal :=
  atDispatch s fun s => forward MsgKind.start.toByte m s

/-- STRIKE (R176): forwarded to the host. -/
def execMsgStrike (m : Msg) (s : State) : Host.Outcome State Fault Refusal :=
  atDispatch s fun s => forward MsgKind.strike.toByte m s

/-- ERROR (R177): forwarded to the host. -/
def execMsgError (m : Msg) (s : State) : Host.Outcome State Fault Refusal :=
  atDispatch s fun s => forward MsgKind.error.toByte m s

/-- DEFUSED (R178): forwarded to the host. -/
def execMsgDefused (m : Msg) (s : State) : Host.Outcome State Fault Refusal :=
  atDispatch s fun s => forward MsgKind.defused.toByte m s

/-- NEEDY (R179): forwarded to the host. -/
def execMsgNeedy (m : Msg) (s : State) : Host.Outcome State Fault Refusal :=
  atDispatch s fun s => forward MsgKind.needy.toByte m s

/-- READ_STATUS: no STATUS reply is generated (R180): forwarded to the host. -/
def execMsgReadStatus (m : Msg) (s : State) : Host.Outcome State Fault Refusal :=
  atDispatch s fun s => forward MsgKind.readStatus.toByte m s

/-- STATUS (R181): forwarded to the host. -/
def execMsgStatus (m : Msg) (s : State) : Host.Outcome State Fault Refusal :=
  atDispatch s fun s => forward MsgKind.status.toByte m s

/-- SOUND (R182): forwarded to the host. -/
def execMsgSound (m : Msg) (s : State) : Host.Outcome State Fault Refusal :=
  atDispatch s fun s => forward MsgKind.sound.toByte m s

/-- A reserved kind, 13 to 255 (R183, 30_encoding.md R67): forwarded with `fwd_reserved = 1`. -/
def forwardReserved (pkt : Packet) (s : State) : State := forward pkt.type pkt.toMsg s

end Sys2Proof.Machine
end

