-- ==== Sys2Proof/Machine/Dispatch.lean ====
section
/-! DEFINITION. The instruction dispatch: one arm per row of spec/opcode_table.json. -/

namespace Sys2Proof.Machine

def exec (i : Instr) (s : State) : Host.Outcome State Fault Refusal :=
  match i with
  | .tick => Sys2Proof.Machine.execTick s
  | .unableToArm => Sys2Proof.Machine.execUnableToArm s
  | .disarmed => Sys2Proof.Machine.execDisarmed s
  | .strike => Sys2Proof.Machine.execStrike s
  | .setMode m => Sys2Proof.Machine.execSetMode m s
  | .msgRequestId m => Sys2Proof.Machine.execMsgRequestId m s
  | .msgResponseId m => Sys2Proof.Machine.execMsgResponseId m s
  | .msgAck m => Sys2Proof.Machine.execMsgAck m s
  | .msgStop m => Sys2Proof.Machine.execMsgStop m s
  | .msgConfigure m => Sys2Proof.Machine.execMsgConfigure m s
  | .msgStart m => Sys2Proof.Machine.execMsgStart m s
  | .msgStrike m => Sys2Proof.Machine.execMsgStrike m s
  | .msgError m => Sys2Proof.Machine.execMsgError m s
  | .msgDefused m => Sys2Proof.Machine.execMsgDefused m s
  | .msgNeedy m => Sys2Proof.Machine.execMsgNeedy m s
  | .msgReadStatus m => Sys2Proof.Machine.execMsgReadStatus m s
  | .msgStatus m => Sys2Proof.Machine.execMsgStatus m s
  | .msgSound m => Sys2Proof.Machine.execMsgSound m s

end Sys2Proof.Machine
end

