-- ==== Sys2Proof/Machine/Step.lean ====
section
/-! DEFINITION. One step of the block, and where its next instruction is placed. -/

namespace Sys2Proof.Machine

/-- One step (10_state.md R30, 00_scope.md R7). The reset input, when asserted, resets (70_reset_and_hazards.md R220). At
IDLE the next command word presented is taken and executed, an illegal one answered (30_encoding.md R72); with none
presented nothing happens (44_node_session.md R155). When TICK's POLL has returned a packet, its kind's reaction is
executed, a reserved kind forwarded (44_node_session.md R165). Else the command in progress goes on. -/
def step (s : State) : Host.Outcome State Fault Refusal :=
  match s.rst with
  | some 0 => .next (hardReset s)
  | _ =>
    match s.ctl with
    | .idle =>
      match s.cmdQ with
      | [] => .next s
      | w :: rest =>
        match decodeCommand w with
        | .ok i => exec i { s with cmdQ := rest }
        | .error _ => .next (rejectWord w { s with cmdQ := rest })
    | .dispatch pkt =>
      match decodePacket pkt with
      | .ok i => exec i s
      | .error _ => .next (forwardReserved pkt s)
    | _ => .next (settle s)

/-- The state in which the very next step runs the instruction of table word `w` (30_encoding.md R77): a command word is
the next one presented to an idle block; a frame header is the packet that TICK's POLL has just returned. The reset input
is not asserted (notes/assumptions/8.md, 9.md). -/
def State.withFetchWord (s : State) (nbits w : Nat) : State :=
  if nbits ≤ 8 then { s with rst := none, ctl := .idle, cmdQ := BitVec.ofNat 8 w :: s.cmdQ }
  else { s with rst := none, ctl := .dispatch (tablePacket w) }

end Sys2Proof.Machine
end

