-- ==== Sys2Proof/Safety.lean ====
section
/-! DEFINITION. The terms claims are stated in: the invariant of the machine (43_delivery_manager.md R143), where a run
rests, and the env calls that one operation makes. -/

namespace Sys2Proof.Machine

/-- The points at which SEND_INTENT is asserted: between TRANSMIT's first and last statement (10_state.md R20). -/
def Ctl.transmitting : Ctl → Bool
  | .txSettle _ => true
  | .txByte _ _ => true
  | _ => false

/-- Whose frame TXBUF holds for the transmission in progress or being arbitrated for: the points inside SEND_GATED
(42_backoff_arbiter.md R125). -/
def Ctl.sender : Ctl → Option Sender
  | .rxSample (.drain k) => some k
  | .rxWaitEnd (.drain k) => some k
  | .rxLen (.drain k) => some k
  | .rxBody (.drain k) _ _ => some k
  | .arbSample k => some k
  | .arbDraw k => some k
  | .arbSleep k _ => some k
  | .txSettle k => some k
  | .txByte k _ => some k
  | _ => none

/-- For whom the transmission runs that is arbitrated for, in progress or just ended: inside SEND_GATED, and at the time
sample after it (43_delivery_manager.md R137, R139). -/
def Ctl.sendFor : Ctl → Option Sender
  | .timeSample (.arm k) => some k
  | c => c.sender

/-- START_PENDING is not finished (43_delivery_manager.md R137). -/
def Ctl.starting (c : Ctl) : Bool :=
  match c.sendFor with
  | some (.request _) => true
  | some .promoted => true
  | some .retry => false
  | none => false

/-- TICK's POLL, and the point where it has returned a packet: before RX_DISPATCH has run (44_node_session.md R155). -/
def Ctl.beforeDispatch : Ctl → Bool
  | .rxSample .tick => true
  | .rxWaitEnd .tick => true
  | .rxLen .tick => true
  | .rxBody .tick _ _ => true
  | .dispatch _ => true
  | _ => false

/-- The pending frame, a pure function of the pending slot and ADDR (10_state.md R18). -/
def State.pendingFrame (s : State) : Option (List Byte) :=
  s.pend.map (fun q => encodeFrame s.addr q.dest q.type q.seq q.pay)

/-- The invariant every step keeps. -/
structure Inv (s : State) : Prop where
  /-- ADDR holds NODE_ADDR from reset onward (10_state.md R11). -/
  addr_fixed : s.addr = s.cfg.nodeAddr
  /-- BQ is non-empty only if PEND_V = 1 (R143 a). -/
  backlog_pending : s.bq ≠ [] → s.pend ≠ none
  /-- `len(BQ) <= BACKLOG_DEPTH` (R143 b). -/
  backlog_bound : s.bq.length ≤ s.cfg.backlogDepth
  /-- SEND_INTENT is 1 exactly while a TRANSMIT is in progress (10_state.md R20, R143 d). -/
  intent_iff : s.sendIntent = s.ctl.transmitting
  /-- Between host commands no event and no forwarded packet is held (30_encoding.md R73). -/
  idle_clear : s.ctl = .idle → s.events = [] ∧ s.fwd = none
  /-- Inside SEND_GATED there is a pending packet and TXBUF holds exactly its frame (10_state.md R18). -/
  sending_frame : s.ctl.sender ≠ none → s.pendingFrame = some s.txbuf
  /-- Time is sampled only while a packet is pending (60_exceptions.md R209). -/
  sampling_pending : ∀ t, s.ctl = .timeSample t → s.pend ≠ none
  /-- While START_PENDING runs, PEND_SEQ = LAST_SEQ (R143 e). -/
  starting_seq : s.ctl.starting = true → s.pend.map Pending.seq = some s.lastSeq
  /-- A command that requests a send carries no forwarded packet: only a TICK does (30_encoding.md R73, R74). -/
  request_forwards_nothing : ∀ op, s.ctl.sendFor = some (.request op) → s.fwd = none
  /-- RX_IDX lies in 1..length+2 and the bytes read begin with the length byte (10_state.md R26, R30). -/
  rx_index : ∀ p len buf, s.ctl = .rxBody p len buf → buf.head? = some len ∧ buf.length < len.toNat + 3
  /-- TX_IDX is an index of the frame (10_state.md R26, R30). -/
  tx_index : ∀ k i, s.ctl = .txByte k i → i < s.txbuf.length
  /-- Before RX_DISPATCH a TICK has recorded no event and holds no packet to forward: what it holds after is what
  RX_DISPATCH returned (44_node_session.md R155, R164). -/
  before_dispatch_clear : s.ctl.beforeDispatch = true → s.events = [] ∧ s.fwd = none
  /-- A packet to dispatch is one that DECODE accepted (40_frame_codec.md R96, 30_encoding.md R77). -/
  dispatched_accepted : ∀ pkt, s.ctl = .dispatch pkt →
    6 ≤ pkt.length.toNat ∧ pkt.payload.length + 6 = pkt.length.toNat
  /-- The events that end a command, codes 7 to 10, are held by no running command (60_exceptions.md R190). -/
  running_events : ∀ e ∈ s.events, e.code < 7 ∨ 10 < e.code

/-- The block can accept a host command, and the reset input is not asserted (00_scope.md R7, 70_reset_and_hazards.md
R220). -/
abbrev State.ready (s : State) : Prop := s.ctl = .idle ∧ s.rst = none

/-- TICK's POLL has returned a packet, and the reset input is not asserted (44_node_session.md R155, R164). -/
def State.dispatching (s : State) : Prop := (∃ pkt, s.ctl = .dispatch pkt) ∧ s.rst = none

/-- The next step takes the command word `w`: the block is idle and `w` is presented (10_state.md R30). -/
def State.takes (s : State) (w : Byte) : Prop := s.ctl = .idle ∧ s.cmdQ.head? = some w

/-- A run rests: no command in progress, a frame to dispatch, an answer that the environment has not given, or the reset
input asserted. -/
def State.resting (s : State) : Prop :=
  s.rst = some 0 ∨
  match s.ctl with
  | .idle => True
  | .dispatch _ => True
  | .rxSample _ => s.lineQ = []
  | .arbSample _ => s.lineQ = []
  | .rxWaitEnd _ => s.burstQ = []
  | .arbDraw _ => s.drawQ = []
  | .timeSample _ => s.nowQ = []
  | .rxLen _ => False
  | .rxBody _ _ _ => False
  | .arbSleep _ _ => False
  | .txSettle _ => False
  | .txByte _ _ => False

/-- The env calls of one TRANSMIT of `frame`, in order (41_bus_transport.md R115). -/
def transmitCalls (settleTime : Nat) (frame : List Byte) : List EnvCall :=
  [.setSendIntent true, .sleep settleTime] ++ frame.map .txByte ++ [.setSendIntent false]

/-- A read of one byte that the receive path answers (00_scope.md R6). -/
def readCall (readTimeout : Nat) (b : Byte) : EnvCall := .rxByte readTimeout (some b)

/-- The byte reads of one POLL whose receive path delivers `bs`: `length + 3` bytes when they are there, else all of them
and one read that times out (41_bus_transport.md R110, R111). -/
def readCalls (readTimeout : Nat) (bs : List Byte) : List EnvCall :=
  match bs with
  | [] => [.rxByte readTimeout none]
  | len :: _ =>
    if bs.length < len.toNat + 3 then bs.map (readCall readTimeout) ++ [.rxByte readTimeout none]
    else (bs.take (len.toNat + 3)).map (readCall readTimeout)

/-- CHK_ACC after a POLL whose receive path delivers `bs`: the sum of the bytes DECODE summed, if they were all there
(10_state.md R24, 40_frame_codec.md R96). -/
def sumAfterRead (old : Half) (bs : List Byte) : Half :=
  if bs.length < (byteAt bs 0).toNat + 3 then old else chkSum (summed bs)

/-- The bytes put on the line in a trace, in order. -/
def sentBytes (trace : List EnvCall) : List Byte :=
  trace.filterMap (fun c => match c with
    | .txByte b => some b
    | _ => none)

end Sys2Proof.Machine
end

