-- ==== Sys2Proof/Certificates/Slice0/Obligations.lean ====
section
/-! DEFINITION. The statements for the provers, one `def Obligations.<Name> : Prop` each, listed in OBLIGATIONS.json. A
statement whose conclusion is `exec i s = .next { s with … }` gives the whole next state: every field not written there
is unchanged. -/

open Sys2Proof Sys2Proof.Machine

/-! ### The checksum unit and the frame codec -/

/-- 40_frame_codec.md R90: CHK_SUM is the sum of the bytes modulo 65536. -/
def Obligations.ChecksumIsSumModulo65536 : Prop :=
  ∀ bytes : List Byte, (chkSum bytes).toNat = (bytes.map BitVec.toNat).sum % 65536

/-- 40_frame_codec.md R91, R92: the checksum that is generated, when one is valid, and that exactly one value is valid. -/
def Obligations.ChecksumGenerateAndVerify : Prop :=
  ∀ (bytes : List Byte) (c : Half),
    (chkGen bytes).toNat = (0xFFFF - (chkSum bytes).toNat) % 65536 ∧
    (chkVerify bytes c = true ↔ ((chkSum bytes).toNat + c.toNat) % 65536 = 0xFFFF) ∧
    (chkVerify bytes c = true ↔ c = chkGen bytes)

/-- 40_frame_codec.md R98 c, R90: the sum does not depend on the order of the bytes. -/
def Obligations.ReorderingInvisibleToChecksum : Prop :=
  ∀ a b : List Byte, a.Perm b → chkSum a = chkSum b ∧ ∀ c, chkVerify a c = chkVerify b c

/-- 30_encoding.md R60 to R62, R65 and 40_frame_codec.md R95: where ENCODE puts each field, and that `length` never wraps. -/
def Obligations.EncodePlacesEveryField : Prop :=
  ∀ (addr dest : Half) (type seq : Byte) (pay : Payload),
    let f := encodeFrame addr dest type seq pay
    let n := pay.bytes.length
    f.length = n + 9 ∧ (byteAt f 0).toNat = 6 + n ∧ memRead16 f 1 = addr ∧ memRead16 f 3 = dest ∧
      byteAt f 5 = type ∧ byteAt f 6 = seq ∧ (f.drop 7).take n = pay.bytes ∧
      memRead16 f (n + 7) = chkGen (f.take (n + 7))

/-- 40_frame_codec.md R97, the round trip. -/
def Obligations.FrameRoundTrip : Prop :=
  ∀ (addr dest : Half) (type seq : Byte) (pay : Payload),
    decodeFrame (encodeFrame addr dest type seq pay) =
      .ok ⟨BitVec.ofNat 8 (6 + pay.bytes.length), addr, dest, type, seq, pay.bytes⟩

/-- 40_frame_codec.md R98 a: any change to a single byte at offsets 1..length+2 of an encoded frame is detected. -/
def Obligations.SingleByteCorruptionDetected : Prop :=
  ∀ (addr dest : Half) (type seq : Byte) (pay : Payload) (i : Nat) (b : Byte),
    1 ≤ i → i < (encodeFrame addr dest type seq pay).length → b ≠ byteAt (encodeFrame addr dest type seq pay) i →
    ∃ s c, decodeFrame ((encodeFrame addr dest type seq pay).set i b) = .error (.checksumError s c)

/-- 40_frame_codec.md R96, 41_bus_transport.md R111: DECODE depends only on the first `length + 3` bytes. -/
def Obligations.DecodeIgnoresSurplusBytes : Prop :=
  ∀ (len : Byte) (bytes extra : List Byte), len.toNat + 2 ≤ bytes.length →
    decodeFrame (len :: bytes ++ extra) = decodeFrame (len :: bytes)

/-- 40_frame_codec.md R96: DECODE whole, its errors in their order and the fields of an accepted frame. -/
def Obligations.DecodeJudgesInOrder : Prop :=
  decodeFrame [] = .error .timeout ∧
  ∀ (len : Byte) (rest : List Byte),
    let buf := len :: rest
    let s := chkSum (buf.take (len.toNat + 1))
    let c := le16 (byteAt buf (len.toNat + 1)) (byteAt buf (len.toNat + 2))
    (buf.length < len.toNat + 3 → decodeFrame buf = .error (.shortRead len buf.length)) ∧
    (len.toNat + 3 ≤ buf.length → (s.toNat + c.toNat) % 65536 ≠ 0xFFFF →
      decodeFrame buf = .error (.checksumError s c)) ∧
    (len.toNat + 3 ≤ buf.length → (s.toNat + c.toNat) % 65536 = 0xFFFF → len.toNat < 6 →
      decodeFrame buf = .error (.lengthError len)) ∧
    (len.toNat + 3 ≤ buf.length → (s.toNat + c.toNat) % 65536 = 0xFFFF → 6 ≤ len.toNat →
      decodeFrame buf = .ok ⟨len, le16 (byteAt buf 1) (byteAt buf 2), le16 (byteAt buf 3) (byteAt buf 4), byteAt buf 5,
        byteAt buf 6, (buf.drop 7).take (len.toNat - 6)⟩)

/-- 30_encoding.md R70 to R77: decoding the encoding of a well-formed instruction, at its port, gives it back. -/
def Obligations.InstructionRoundTrip : Prop :=
  ∀ i : Instr, i.wf = true → decode i.port (encode i) = .ok i

/-- 30_encoding.md R72: of the 256 command words exactly these 8 are legal. -/
def Obligations.EightLegalCommandWords : Prop :=
  ∀ w : Byte, (∃ i, decodeCommand w = .ok i) ↔
    w ∈ [0x00#8, 0x01#8, 0x02#8, 0x03#8, 0x04#8, 0x0C#8, 0x14#8, 0x1C#8]

/-- 30_encoding.md R77, R66, R67, 44_node_session.md R165: the type byte alone selects the kind; 13 to 255 select none. -/
def Obligations.TypeByteAloneSelectsTheKind : Prop :=
  (∀ (p : Packet) (k : MsgKind), p.type = k.toByte → decodePacket p = .ok (Instr.ofKind k p.toMsg)) ∧
  ∀ p : Packet, 13 ≤ p.type.toNat → decodePacket p = .error (.reservedKind p.type)

/-- 30_encoding.md R60, R71 and 95_test_vectors.md 6.1, V2.1, V2.10: words written out from the spec's encodings. -/
def Obligations.SampleWordsDecode : Prop :=
  decode .command [0b00000000#8] = .ok .tick ∧
  decode .command [0b00000011#8] = .ok .strike ∧
  decode .command [0b00010100#8] = .ok (.setMode .armed) ∧
  decode .line [0x06#8, 0x10#8, 0x00#8, 0x00#8, 0x00#8, 0x06#8, 0x03#8, 0xE0#8, 0xFF#8] =
    .ok (.msgStrike ⟨0x0010#16, 0x0000#16, 0x03#8, []⟩) ∧
  decode .line [0x08#8, 0x00#8, 0x00#8, 0x10#8, 0x00#8, 0x04#8, 0xFE#8, 0x01#8, 0x02#8, 0xE2#8, 0xFE#8] =
    .ok (.msgConfigure ⟨0x0000#16, 0x0010#16, 0xFE#8, [0x01#8, 0x02#8]⟩)

/-! ### Reset and the step -/

/-- 10_state.md R31: what the spec states of the state after reset. -/
def Obligations.ResetStateAsStated : Prop :=
  State.reset.addr = Config.params.nodeAddr ∧ State.reset.addr = State.reset.cfg.nodeAddr ∧
  State.reset.lastSeq = 0x00#8 ∧ State.reset.mode = .sleep ∧ State.reset.pend = none ∧ State.reset.bq = [] ∧
  State.reset.sendIntent = false ∧ State.reset.ctl = .idle ∧ State.reset.rxbuf = []

/-- 70_reset_and_hazards.md R220: the reset input forces the reset state at whatever point the block is, releases
SEND_INTENT, and answers no command; nothing else leaves DISARMED (`DisarmedIsTerminal`). That the answers not yet used, the
commands not yet taken and the clock stay is the model's choice (notes/assumptions/10.md). -/
def Obligations.ResetInputForcesResetState : Prop :=
  ∀ s : State, s.rst = some 0 → ∃ t, step s = .next t ∧
    t.addr = s.cfg.nodeAddr ∧ t.lastSeq = 0x00#8 ∧ t.mode = .sleep ∧ t.pend = none ∧ t.bq = [] ∧
    t.sendIntent = false ∧ t.ctl = .idle ∧ t.rxbuf = [] ∧ t.cfg = s.cfg ∧ t.rsps = s.rsps ∧
    sentBytes t.trace = sentBytes s.trace ∧ t.cmdQ = s.cmdQ ∧ t.rst = none

/-- 10_state.md R30, 30_encoding.md R71, R77: a step is exec of the decoded instruction. At IDLE it is the next command
word presented, which the step takes; with a packet to dispatch it is that packet's kind. -/
def Obligations.StepRunsDecodedInstruction : Prop :=
  (∀ (s : State) (w : Byte) (rest : List Byte) (i : Instr), s.ready → s.cmdQ = w :: rest →
    decode .command [w] = .ok i → step s = exec i { s with cmdQ := rest }) ∧
  (∀ (s : State) (pkt : Packet) (i : Instr), s.ctl = .dispatch pkt → s.rst = none →
    decodePacket pkt = .ok i → step s = exec i s)

/-- 60_exceptions.md R200: an illegal command word. -/
def Obligations.IllegalWordAnsweredWithoutEffect : Prop :=
  ∀ (s : State) (w : Byte) (rest : List Byte), s.ready → s.cmdQ = w :: rest →
    w ∉ [0x00#8, 0x01#8, 0x02#8, 0x03#8, 0x04#8, 0x0C#8, 0x14#8, 0x1C#8] →
    step s = .next { s with
      cmdQ := rest
      rsps := s.rsps ++ [⟨.illegal, [.illegalCmd w], none⟩]
      events := []
      fwd := none }

/-- 44_node_session.md R183, 30_encoding.md R67: a packet of a reserved kind is forwarded with `fwd_reserved = 1` and sets
LAST_SEQ. With nothing pending the TICK answers at once, else it is at RETRY_CHECK's time sample. -/
def Obligations.ReservedKindForwardedFlagged : Prop :=
  ∀ (s : State) (pkt : Packet), s.ctl = .dispatch pkt → s.rst = none → 13 ≤ pkt.type.toNat →
    let f : Forwarded := ⟨pkt.source, pkt.dest, pkt.type, pkt.seq, BitVec.ofNat 8 pkt.payload.length, pkt.payload, true⟩
    (s.pend = none → step s = .next { s with
      lastSeq := pkt.seq
      ctl := .idle
      rsps := s.rsps ++ [⟨.ok, s.events, some f⟩]
      events := []
      fwd := none }) ∧
    (s.pend ≠ none → step s = .next { s with
      lastSeq := pkt.seq
      ctl := .timeSample .retryTest
      fwd := some f })

/-- 44_node_session.md R155 d, 00_scope.md R7: with no command presented the block does nothing; a command in progress
goes on, and no other is taken meanwhile. -/
def Obligations.StepElsewhereContinues : Prop :=
  (∀ s : State, s.ready → s.cmdQ = [] → step s = .next s) ∧
  (∀ s : State, s.rst ≠ some 0 → s.ctl ≠ .idle → (∀ pkt, s.ctl ≠ .dispatch pkt) →
    ∃ t, step s = .next t ∧ t.cmdQ = s.cmdQ)

/-- 60_exceptions.md R204, R205: nothing is fatal; every step of every state gives a next state. -/
def Obligations.NoStepFaultsOrRefuses : Prop :=
  ∀ s : State, ∃ t, step s = .next t

/-! ### Host commands -/

/-- 44_node_session.md R155, 95_test_vectors.md V7.11: a TICK on an idle line with nothing pending answers OK, takes no
time sample and changes nothing else. -/
def Obligations.TickWithNothingToDo : Prop :=
  ∀ (s : State) (ls : List Bool), s.ready → s.pend = none → s.lineQ = false :: ls →
    exec .tick s = .next { s with
      lineQ := ls
      rsps := s.rsps ++ [⟨.ok, [], none⟩]
      events := []
      fwd := none
      trace := s.trace ++ [.lineActive false] }

/-- 43_delivery_manager.md R139: before PEND_NEXT_RETRY a TICK takes one time sample and retransmits nothing.
That an answer below an earlier one is taken as the earlier one is the model's choice (notes/assumptions/3.md). -/
def Obligations.TickBeforeRetryTime : Prop :=
  ∀ (s : State) (ls : List Bool) (x : Nat) (ns : List Nat), s.ready → s.pend ≠ none → s.lineQ = false :: ls →
    s.nowQ = x :: ns → max s.time x < s.pendNextRetry →
    exec .tick s = .next { s with
      lineQ := ls
      nowQ := ns
      time := max s.time x
      rsps := s.rsps ++ [⟨.ok, [], none⟩]
      events := []
      fwd := none
      trace := s.trace ++ [.lineActive false, .now (max s.time x)] }

/-- 43_delivery_manager.md R139, 60_exceptions.md R195: at or after PEND_NEXT_RETRY a TICK retransmits the pending frame
once, and re-arms; PEND_SEQ and LAST_SEQ stay. The model's choices: what TXBUF and CHK_ACC hold afterwards
(notes/assumptions/18.md), and that an answer of the clock below an earlier one is taken as the earlier one
(notes/assumptions/3.md). -/
def Obligations.TickRetransmitsWhenDue : Prop :=
  ∀ (s : State) (q : Pending) (ls : List Bool) (x y : Nat) (ns : List Nat), s.ready → s.pend = some q →
    s.lineQ = false :: false :: ls → s.nowQ = x :: y :: ns → s.pendNextRetry ≤ max s.time x →
    exec .tick s = .next { s with
      lineQ := ls
      nowQ := ns
      time := max (max s.time x) y
      pendNextRetry := max (max s.time x) y + s.cfg.retryInterval
      sendIntent := false
      txbuf := encodeFrame s.addr q.dest q.type q.seq q.pay
      chkAcc := chkSum (frameBody s.addr q.dest q.type q.seq q.pay.bytes)
      rxbuf := []
      rsps := s.rsps ++ [⟨.ok, [.deliveryTimeout q.seq], none⟩]
      events := []
      fwd := none
      trace := s.trace ++ [.lineActive false, .now (max s.time x), .lineActive false] ++
        transmitCalls s.cfg.settleTime (encodeFrame s.addr q.dest q.type q.seq q.pay) ++
        [.now (max (max s.time x) y)] }

/-- 44_node_session.md R155, 41_bus_transport.md R110, R113: a TICK that reads a frame DECODE accepts hands its packet to
the dispatch, RXBUF emptied and no other element of R10 changed yet. The model's choices: that the step ends there
(notes/assumptions/1.md), and what CHK_ACC holds afterwards (notes/assumptions/18.md). -/
def Obligations.TickReceivesAcceptedFrame : Prop :=
  ∀ (s : State) (ls : List Bool) (bs : List Byte) (rest : List Burst) (pkt : Packet), s.ready →
    s.lineQ = true :: ls → s.burstQ = .bytes bs :: rest → decodeFrame (s.rxbuf ++ bs) = .ok pkt →
    exec .tick s = .next { s with
      lineQ := ls
      burstQ := rest
      rxbuf := []
      ctl := .dispatch pkt
      chkAcc := chkSum (summed (s.rxbuf ++ bs))
      events := []
      fwd := none
      trace := s.trace ++ [.lineActive true, .waitActivityEnd s.cfg.activityTimeout true] ++
        readCalls s.cfg.readTimeout (s.rxbuf ++ bs) }

/-- 44_node_session.md R155 b, 60_exceptions.md R191 to R194: a frame that is discarded leaves every state element
unchanged; its event is recorded and the TICK goes on to RETRY_CHECK: with nothing pending it answers, else it goes on from
RETRY_CHECK's time sample. What CHK_ACC holds afterwards is the model's choice (notes/assumptions/18.md). -/
def Obligations.TickDiscardsBadFrame : Prop :=
  ∀ (s : State) (ls : List Bool) (bs : List Byte) (rest : List Burst) (e : RxError), s.ready →
    s.lineQ = true :: ls → s.burstQ = .bytes bs :: rest → decodeFrame (s.rxbuf ++ bs) = .error e →
    let read : State := { s with
      lineQ := ls
      burstQ := rest
      rxbuf := []
      chkAcc := sumAfterRead s.chkAcc (s.rxbuf ++ bs)
      fwd := none
      trace := s.trace ++ [.lineActive true, .waitActivityEnd s.cfg.activityTimeout true] ++
        readCalls s.cfg.readTimeout (s.rxbuf ++ bs) }
    (s.pend = none → exec .tick s = .next { read with
      rsps := s.rsps ++ [⟨.ok, [rxEvent e], none⟩]
      events := [] }) ∧
    (s.pend ≠ none → exec .tick s = .next (settle { read with
      ctl := .timeSample .retryTest
      events := [rxEvent e] }))

/-- 60_exceptions.md R193: activity that does not end within ACTIVITY_TIMEOUT is treated as nothing received; the TICK goes
on as in `TickDiscardsBadFrame`. -/
def Obligations.TickTimesOutOnEndlessActivity : Prop :=
  ∀ (s : State) (ls : List Bool) (rest : List Burst), s.ready → s.lineQ = true :: ls → s.burstQ = .timedOut :: rest →
    let waited : State := { s with
      lineQ := ls
      burstQ := rest
      rxbuf := []
      fwd := none
      trace := s.trace ++ [.lineActive true, .waitActivityEnd s.cfg.activityTimeout false] }
    (s.pend = none → exec .tick s = .next { waited with
      rsps := s.rsps ++ [⟨.ok, [.timeout .activity], none⟩]
      events := [] }) ∧
    (s.pend ≠ none → exec .tick s = .next (settle { waited with
      ctl := .timeSample .retryTest
      events := [.timeout .activity] }))

/-- 43_delivery_manager.md R139: RETRY_CHECK's time sample in any TICK: before PEND_NEXT_RETRY the TICK answers; at or after
it DELIVERY_TIMEOUT is recorded and SEND_GATED entered with the pending frame. The model's choices: what CHK_ACC holds
after ENCODE (notes/assumptions/18.md), and that an answer of the clock below an earlier one is taken as the earlier one
(notes/assumptions/3.md). -/
def Obligations.RetryCheckComparesOneSample : Prop :=
  ∀ (s : State) (q : Pending) (x : Nat) (ns : List Nat), s.ctl = .timeSample .retryTest → s.rst = none →
    s.pend = some q → s.nowQ = x :: ns →
    let sampled : State := { s with
      nowQ := ns
      time := max s.time x
      trace := s.trace ++ [.now (max s.time x)] }
    (max s.time x < s.pendNextRetry → settle s = { sampled with
      ctl := .idle
      rsps := s.rsps ++ [⟨.ok, s.events, s.fwd⟩]
      events := []
      fwd := none }) ∧
    (s.pendNextRetry ≤ max s.time x → settle s = settle { sampled with
      ctl := .arbSample .retry
      events := s.events ++ [.deliveryTimeout q.seq]
      txbuf := encodeFrame s.addr q.dest q.type q.seq q.pay
      chkAcc := chkSum (frameBody s.addr q.dest q.type q.seq q.pay.bytes) })

/-- 43_delivery_manager.md R137, R140, 44_node_session.md R155: after a promoted packet's transmission its retry time is
armed, and the TICK goes on to RETRY_CHECK; the other senders are in `RequestOrRetryAnswersOnceArmed`. That an answer of
the clock below an earlier one is taken as the earlier one is the model's choice (notes/assumptions/3.md). -/
def Obligations.PromotedPacketIsArmed : Prop :=
  ∀ (s : State) (x : Nat) (ns : List Nat), s.ctl = .timeSample (.arm .promoted) → s.rst = none → s.pend ≠ none →
    s.nowQ = x :: ns →
    settle s = settle { s with
      nowQ := ns
      time := max s.time x
      pendNextRetry := max s.time x + s.cfg.retryInterval
      ctl := .timeSample .retryTest
      trace := s.trace ++ [.now (max s.time x)] }

/-- 44_node_session.md R156, 43_delivery_manager.md R137: UNABLE_TO_ARM with an empty slot and an idle line sends ERROR, in
every MODE; a busy line is in `RequestsEnterSendGated`. The model's choices: what TXBUF and CHK_ACC hold afterwards
(notes/assumptions/18.md), and that an answer of the clock below an earlier one is taken as the earlier one
(notes/assumptions/3.md). -/
def Obligations.UnableToArmSendsError : Prop :=
  ∀ (s : State) (ls : List Bool) (x : Nat) (ns : List Nat), s.ready → s.pend = none →
    s.lineQ = false :: ls → s.nowQ = x :: ns →
    exec .unableToArm s = .next { s with
      lineQ := ls
      nowQ := ns
      time := max s.time x
      lastSeq := s.lastSeq + 1#8
      pend := some ⟨0x0000#16, 0x07#8, s.lastSeq + 1#8, ⟨[], Nat.zero_le _⟩⟩
      pendNextRetry := max s.time x + s.cfg.retryInterval
      sendIntent := false
      txbuf := frameBytes s.addr 0x0000#16 0x07#8 (s.lastSeq + 1#8) []
      chkAcc := chkSum (frameBody s.addr 0x0000#16 0x07#8 (s.lastSeq + 1#8) [])
      rxbuf := []
      rsps := s.rsps ++ [⟨.ok, [], none⟩]
      events := []
      fwd := none
      trace := s.trace ++ [.lineActive false] ++
        transmitCalls s.cfg.settleTime (frameBytes s.addr 0x0000#16 0x07#8 (s.lastSeq + 1#8) []) ++
        [.now (max s.time x)] }

/-- 44_node_session.md R157: STRIKE with an empty slot and an idle line sends STRIKE and leaves MODE; a busy line is in
`RequestsEnterSendGated`. The model's choices: what TXBUF and CHK_ACC hold afterwards (notes/assumptions/18.md), and that an
answer of the clock below an earlier one is taken as the earlier one (notes/assumptions/3.md). -/
def Obligations.StrikeSendsStrike : Prop :=
  ∀ (s : State) (ls : List Bool) (x : Nat) (ns : List Nat), s.ready → s.mode ≠ .disarmed → s.pend = none →
    s.lineQ = false :: ls → s.nowQ = x :: ns →
    exec .strike s = .next { s with
      lineQ := ls
      nowQ := ns
      time := max s.time x
      lastSeq := s.lastSeq + 1#8
      pend := some ⟨0x0000#16, 0x06#8, s.lastSeq + 1#8, ⟨[], Nat.zero_le _⟩⟩
      pendNextRetry := max s.time x + s.cfg.retryInterval
      sendIntent := false
      txbuf := frameBytes s.addr 0x0000#16 0x06#8 (s.lastSeq + 1#8) []
      chkAcc := chkSum (frameBody s.addr 0x0000#16 0x06#8 (s.lastSeq + 1#8) [])
      rxbuf := []
      rsps := s.rsps ++ [⟨.ok, [], none⟩]
      events := []
      fwd := none
      trace := s.trace ++ [.lineActive false] ++
        transmitCalls s.cfg.settleTime (frameBytes s.addr 0x0000#16 0x06#8 (s.lastSeq + 1#8) []) ++
        [.now (max s.time x)] }

/-- 44_node_session.md R158: DISARMED with an empty slot and an idle line sends DEFUSED, and MODE is then DISARMED;
a busy line is in `RequestsEnterSendGated`. The model's choices: what TXBUF and CHK_ACC hold afterwards
(notes/assumptions/18.md), and that an answer of the clock below an earlier one is taken as the earlier one
(notes/assumptions/3.md). -/
def Obligations.DisarmedSendsDefused : Prop :=
  ∀ (s : State) (ls : List Bool) (x : Nat) (ns : List Nat), s.ready → s.mode ≠ .disarmed → s.pend = none →
    s.lineQ = false :: ls → s.nowQ = x :: ns →
    exec .disarmed s = .next { s with
      mode := .disarmed
      lineQ := ls
      nowQ := ns
      time := max s.time x
      lastSeq := s.lastSeq + 1#8
      pend := some ⟨0x0000#16, 0x08#8, s.lastSeq + 1#8, ⟨[], Nat.zero_le _⟩⟩
      pendNextRetry := max s.time x + s.cfg.retryInterval
      sendIntent := false
      txbuf := frameBytes s.addr 0x0000#16 0x08#8 (s.lastSeq + 1#8) []
      chkAcc := chkSum (frameBody s.addr 0x0000#16 0x08#8 (s.lastSeq + 1#8) [])
      rxbuf := []
      rsps := s.rsps ++ [⟨.ok, [], none⟩]
      events := []
      fwd := none
      trace := s.trace ++ [.lineActive false] ++
        transmitCalls s.cfg.settleTime (frameBytes s.addr 0x0000#16 0x08#8 (s.lastSeq + 1#8) []) ++
        [.now (max s.time x)] }

/-- 43_delivery_manager.md R136: a request made while a packet is pending and the backlog has room joins its tail; nothing
is sent and no number allocated; DISARMED sets MODE at once (44_node_session.md R158 b). -/
def Obligations.RequestsJoinTheBacklog : Prop :=
  ∀ s : State, s.ready → s.pend ≠ none → s.bq.length < s.cfg.backlogDepth →
    exec .unableToArm s = .next { s with
      bq := s.bq ++ [⟨0x0000#16, 0x07#8, ⟨[], Nat.zero_le _⟩⟩]
      rsps := s.rsps ++ [⟨.ok, [], none⟩]
      events := []
      fwd := none } ∧
    (s.mode ≠ .disarmed →
      exec .strike s = .next { s with
        bq := s.bq ++ [⟨0x0000#16, 0x06#8, ⟨[], Nat.zero_le _⟩⟩]
        rsps := s.rsps ++ [⟨.ok, [], none⟩]
        events := []
        fwd := none } ∧
      exec .disarmed s = .next { s with
        mode := .disarmed
        bq := s.bq ++ [⟨0x0000#16, 0x08#8, ⟨[], Nat.zero_le _⟩⟩]
        rsps := s.rsps ++ [⟨.ok, [], none⟩]
        events := []
        fwd := none })

/-- 60_exceptions.md R197, 43_delivery_manager.md R136: a request that finds the backlog full is refused with BUSY and
TXQ_FULL, and nothing changes; MODE stays too (44_node_session.md R158 c). -/
def Obligations.FullBacklogRefusesRequests : Prop :=
  ∀ s : State, s.ready → s.pend ≠ none → s.bq.length = s.cfg.backlogDepth →
    (∀ i, i = .unableToArm ∨ (s.mode ≠ .disarmed ∧ (i = .strike ∨ i = .disarmed)) →
      exec i s = .next { s with
        rsps := s.rsps ++ [⟨.busy, [.txqFull], none⟩]
        events := []
        fwd := none })

/-- 60_exceptions.md R198: STRIKE and DISARMED in the terminal mode. -/
def Obligations.TerminalModeRejects : Prop :=
  ∀ s : State, s.ready → s.mode = .disarmed →
    exec .strike s = .next { s with
      rsps := s.rsps ++ [⟨.rejected, [.terminalReject .strike], none⟩]
      events := []
      fwd := none } ∧
    exec .disarmed s = .next { s with
      rsps := s.rsps ++ [⟨.rejected, [.terminalReject .disarmed], none⟩]
      events := []
      fwd := none }

/-- 44_node_session.md R160, 60_exceptions.md R199: the two edges SET_MODE accepts, and its refusal of every other. -/
def Obligations.SetModeAcceptsExactlyTwoEdges : Prop :=
  ∀ (s : State) (m : Mode), s.ready →
    ((s.mode = .sleep ∧ m = .ready) ∨ (s.mode = .ready ∧ m = .armed) →
      exec (.setMode m) s = .next { s with
        mode := m
        rsps := s.rsps ++ [⟨.ok, [], none⟩]
        events := []
        fwd := none }) ∧
    (¬((s.mode = .sleep ∧ m = .ready) ∨ (s.mode = .ready ∧ m = .armed)) →
      exec (.setMode m) s = .next { s with
        rsps := s.rsps ++ [⟨.badEdge, [.illegalModeEdge s.mode m], none⟩]
        events := []
        fwd := none })

/-! ### The arbiter and the transport -/

/-- 41_bus_transport.md R115, 42_backoff_arbiter.md R125: once the line is sampled idle the whole of TXBUF goes out,
between SEND_INTENT's rise and fall, without another look at the line; then the time is sampled. -/
def Obligations.IdleSampleTransmitsWholeFrame : Prop :=
  ∀ (s : State) (k : Sender) (ls : List Bool), s.ctl = .arbSample k → s.rst = none → s.txbuf ≠ [] →
    s.lineQ = false :: ls →
    settle s = settle { s with
      lineQ := ls
      sendIntent := false
      rxbuf := []
      ctl := .timeSample (.arm k)
      trace := s.trace ++ [.lineActive false] ++ transmitCalls s.cfg.settleTime s.txbuf }

/-- 41_bus_transport.md R111: the byte-by-byte POLL is DECODE of the burst, and a burst that times out is TIMEOUT
(42_backoff_arbiter.md R125 c for a drain). What CHK_ACC holds afterwards is the model's choice
(notes/assumptions/18.md). -/
def Obligations.PollIsDecodeOfTheBurst : Prop :=
  ∀ (s : State) (p : Poller) (rest : List Burst), s.ctl = .rxWaitEnd p → s.rst = none →
    (∀ bs, s.burstQ = .bytes bs :: rest →
      let read : State := { s with
        burstQ := rest
        rxbuf := []
        chkAcc := sumAfterRead s.chkAcc (s.rxbuf ++ bs)
        trace := s.trace ++ [.waitActivityEnd s.cfg.activityTimeout true] ++
          readCalls s.cfg.readTimeout (s.rxbuf ++ bs) }
      (∀ pkt, decodeFrame (s.rxbuf ++ bs) = .ok pkt → settle s = settle (pollDone p (some pkt) read)) ∧
      (∀ e, decodeFrame (s.rxbuf ++ bs) = .error e → settle s = settle (pollDone p none (emit (rxEvent e) read)))) ∧
    (s.burstQ = .timedOut :: rest →
      settle s = settle (pollDone p none (emit (.timeout .activity) { s with
        burstQ := rest
        rxbuf := []
        trace := s.trace ++ [.waitActivityEnd s.cfg.activityTimeout false] })))

/-- 42_backoff_arbiter.md R125 b: a busy sample whose drain finds the line idle again still draws and sleeps; the draw is in
the configured interval. That an answer outside it is taken as one inside is the model's choice (notes/assumptions/3.md). -/
def Obligations.BusySampleIdleDrainBacksOff : Prop :=
  ∀ (s : State) (k : Sender) (ls : List Bool) (x : Nat) (ds : List Nat), s.ctl = .arbSample k → s.rst = none →
    s.lineQ = true :: false :: ls → s.drawQ = x :: ds →
    ∃ d, s.cfg.backoffMin ≤ d ∧ d ≤ s.cfg.backoffMax ∧
      (s.cfg.backoffMin ≤ x ∧ x ≤ s.cfg.backoffMax → d = x) ∧
      settle s = settle { s with
        lineQ := ls
        drawQ := ds
        events := s.events ++ [.busBusy, .drained false]
        trace := s.trace ++ [.lineActive true, .lineActive false, .drawBackoff d, .sleep d] }

/-- 42_backoff_arbiter.md R126: a valid frame drained during arbitration is dropped; LAST_SEQ, the pending slot, the backlog
and MODE stay, nothing is forwarded, even if it is the matching ACK. The model's choices: what CHK_ACC holds afterwards
(notes/assumptions/18.md), and that a draw outside the interval is taken as its nearer end (notes/assumptions/3.md). -/
def Obligations.DrainedFrameIsDropped : Prop :=
  ∀ (s : State) (k : Sender) (ls : List Bool) (bs : List Byte) (rest : List Burst) (pkt : Packet) (x : Nat)
    (ds : List Nat), s.ctl = .arbSample k → s.rst = none → s.lineQ = true :: true :: ls →
    s.burstQ = .bytes bs :: rest → s.drawQ = x :: ds → decodeFrame (s.rxbuf ++ bs) = .ok pkt →
    settle s = settle { s with
      lineQ := ls
      burstQ := rest
      drawQ := ds
      rxbuf := []
      chkAcc := chkSum (summed (s.rxbuf ++ bs))
      events := s.events ++ [.busBusy, .drained true]
      trace := s.trace ++ [.lineActive true, .lineActive true, .waitActivityEnd s.cfg.activityTimeout true] ++
        readCalls s.cfg.readTimeout (s.rxbuf ++ bs) ++
        [.drawBackoff (clampDraw s.cfg x), .sleep (clampDraw s.cfg x)] }

/-- 42_backoff_arbiter.md R128, 70_reset_and_hazards.md R232: while every sample finds the line busy, a command that sends
transmits nothing and answers nothing; it is still inside SEND_GATED. -/
def Obligations.StuckBusyLineNeverTransmits : Prop :=
  ∀ (s t : State) (i : Instr), s.ready → s.pend = none → s.mode ≠ .disarmed →
    (i = .unableToArm ∨ i = .strike ∨ i = .disarmed) → (∀ b ∈ s.lineQ, b = true) → exec i s = .next t →
    t.ctl.sender ≠ none ∧ t.ctl.transmitting = false ∧ sentBytes t.trace = sentBytes s.trace ∧ t.rsps = s.rsps ∧
      t.mode = s.mode ∧ t.sendIntent = s.sendIntent

/-! ### Received frames -/

/-- 44_node_session.md R164, R170, R171, R173 to R182, 30_encoding.md R74: every kind but ACK (REQUEST_ID, RESPONSE_ID,
STOP, CONFIGURE, START, STRIKE, ERROR, DEFUSED, NEEDY, READ_STATUS, STATUS, SOUND) sets LAST_SEQ and is forwarded; with
nothing pending the TICK answers at once. Nothing else changes. -/
def Obligations.ForwardedKindsAnswerTick : Prop :=
  ∀ (s : State) (k : MsgKind) (m : Msg), s.dispatching → k ≠ .ack → s.pend = none →
    exec (Instr.ofKind k m) s = .next { s with
      lastSeq := m.seq
      ctl := .idle
      rsps := s.rsps ++ [⟨.ok, s.events, some ⟨m.source, m.dest, k.toByte, m.seq,
        BitVec.ofNat 8 m.payload.length, m.payload, false⟩⟩]
      events := []
      fwd := none }

/-- As `ForwardedKindsAnswerTick`, with a packet pending: the TICK is at RETRY_CHECK's time sample with the packet to
forward; the pending slot, the backlog and MODE are untouched. -/
def Obligations.ForwardedKindsReachRetryCheck : Prop :=
  ∀ (s : State) (k : MsgKind) (m : Msg), s.dispatching → k ≠ .ack → s.pend ≠ none →
    exec (Instr.ofKind k m) s = .next { s with
      lastSeq := m.seq
      ctl := .timeSample .retryTest
      fwd := some ⟨m.source, m.dest, k.toByte, m.seq, BitVec.ofNat 8 m.payload.length, m.payload, false⟩ }

/-- 43_delivery_manager.md R140: a matching ACK with an empty backlog clears the slot; no time sample, no retransmission,
and the ACK is not forwarded (44_node_session.md R164, R172). That nothing is held to forward at a dispatch is part of the
invariant (`Inv.before_dispatch_clear`). -/
def Obligations.MatchingAckClearsSlot : Prop :=
  ∀ (s : State) (m : Msg) (q : Pending), s.dispatching → s.fwd = none → s.pend = some q → q.seq = m.seq → s.bq = [] →
    exec (.msgAck m) s = .next { s with
      lastSeq := m.seq
      pend := none
      ctl := .idle
      rsps := s.rsps ++ [⟨.ok, s.events ++ [.acked m.seq], none⟩]
      events := []
      fwd := none }

/-- 43_delivery_manager.md R140 d: a matching ACK with a backlog promotes its head at once, numbered the acknowledged
number plus one, and enters SEND_GATED with its frame. What CHK_ACC holds after ENCODE is the model's choice
(notes/assumptions/18.md). -/
def Obligations.MatchingAckPromotesBacklogHead : Prop :=
  ∀ (s : State) (m : Msg) (q : Pending) (r : Request) (rest : List Request), s.dispatching → s.pend = some q →
    q.seq = m.seq → s.bq = r :: rest →
    exec (.msgAck m) s = .next { s with
      lastSeq := m.seq + 1#8
      pend := some ⟨r.dest, r.type, m.seq + 1#8, r.pay⟩
      bq := rest
      events := s.events ++ [.acked m.seq]
      ctl := .arbSample .promoted
      txbuf := encodeFrame s.addr r.dest r.type (m.seq + 1#8) r.pay
      chkAcc := chkSum (frameBody s.addr r.dest r.type (m.seq + 1#8) r.pay.bytes) }

/-- 43_delivery_manager.md R140, 90_conflicts.md C2: any other ACK changes LAST_SEQ only; with nothing pending the TICK
answers, else it is at RETRY_CHECK's time sample; the ACK is not forwarded (44_node_session.md R164, R172). That nothing is
held to forward at a dispatch is part of the invariant (`Inv.before_dispatch_clear`). -/
def Obligations.OtherAckIgnored : Prop :=
  ∀ (s : State) (m : Msg), s.dispatching → s.fwd = none → (∀ q, s.pend = some q → q.seq ≠ m.seq) →
    (s.pend = none → exec (.msgAck m) s = .next { s with
      lastSeq := m.seq
      ctl := .idle
      rsps := s.rsps ++ [⟨.ok, s.events ++ [.ackIgnored m.seq], none⟩]
      events := []
      fwd := none }) ∧
    (s.pend ≠ none → exec (.msgAck m) s = .next { s with
      lastSeq := m.seq
      ctl := .timeSample .retryTest
      events := s.events ++ [.ackIgnored m.seq]
      fwd := none })

/-- 43_delivery_manager.md R140, 44_node_session.md R166: of a received ACK only the sequence number counts: two that differ
in source, destination or payload take the block to the same state. -/
def Obligations.OnlySequenceOfAckCounts : Prop :=
  ∀ (s : State) (a b : Packet), a.type = 0x02#8 → b.type = 0x02#8 → a.seq = b.seq →
    step { s with ctl := .dispatch a } = step { s with ctl := .dispatch b }

/-! ### Whole-machine rules -/

/-- The invariant (43_delivery_manager.md R143) holds after reset. -/
def Obligations.ResetMeetsInvariant : Prop := Inv State.reset

/-- 43_delivery_manager.md R143, 10_state.md R11, R18, R20: every step keeps the invariant. -/
def Obligations.EveryStepKeepsInvariant : Prop :=
  ∀ s t : State, Inv s → step s = .next t → Inv t

/-- 10_state.md R13: DISARMED is terminal, only reset leaves it. -/
def Obligations.DisarmedIsTerminal : Prop :=
  ∀ s t : State, s.mode = .disarmed → s.rst ≠ some 0 → step s = .next t → t.mode = .disarmed

/-- 44_node_session.md R161: the edges of the mode state machine and the one command that takes each: SET_MODE READY (word
0x0C), SET_MODE ARMED (0x14), and DISARMED (0x02), which may end in a later step; none comes from a received frame. -/
def Obligations.ModeMovesOnlyAlongEdges : Prop :=
  ∀ s t : State, s.rst ≠ some 0 → step s = .next t →
    (t.mode = s.mode ∨
      (s.mode = .sleep ∧ t.mode = .ready ∧ s.takes 0x0C#8) ∨
      (s.mode = .ready ∧ t.mode = .armed ∧ s.takes 0x14#8) ∨
      (t.mode = .disarmed ∧ (s.takes 0x02#8 ∨ s.ctl.sendFor = some (.request .disarmed)))) ∧
    (∀ pkt, s.ctl = .dispatch pkt → t.mode = s.mode)

/-- 10_state.md R14, R15, 20_memory.md R46: only a matching ACK or reset ends a pending packet, and nothing alters it. -/
def Obligations.OnlyMatchingAckEndsPending : Prop :=
  ∀ (s t : State) (q : Pending), s.pend = some q → s.rst ≠ some 0 → step s = .next t →
    t.pend = some q ∨ ∃ pkt, s.ctl = .dispatch pkt ∧ pkt.type = 0x02#8 ∧ pkt.seq = q.seq

/-- 10_state.md R12, 42_backoff_arbiter.md R126: LAST_SEQ is written by the dispatch of a frame and by START_PENDING only,
which allocates the successor. -/
def Obligations.LastSeqHasTwoWriters : Prop :=
  ∀ s t : State, s.rst ≠ some 0 → step s = .next t → t.lastSeq ≠ s.lastSeq →
    (∃ pkt, s.ctl = .dispatch pkt ∧
      (t.lastSeq = pkt.seq ∨ (pkt.type = 0x02#8 ∧ t.lastSeq = pkt.seq + 1#8))) ∨
    (s.ctl = .idle ∧ s.pend = none ∧ t.lastSeq = s.lastSeq + 1#8 ∧ t.pend.map Pending.seq = some t.lastSeq)

/-- 10_state.md R19, 43_delivery_manager.md R143 f: the backlog is a queue: a step leaves it, appends at its tail, or
removes its head, which becomes the pending packet. -/
def Obligations.BacklogIsFirstInFirstOut : Prop :=
  ∀ s t : State, s.rst ≠ some 0 → step s = .next t →
    t.bq = s.bq ∨ (∃ r, t.bq = s.bq ++ [r]) ∨
    (∃ r q, s.bq = r :: t.bq ∧ t.pend = some q ∧ q.dest = r.dest ∧ q.type = r.type ∧ q.pay = r.pay)

/-- 30_encoding.md R73, R74: a step answers at most one command, and an answer with a forwarded packet ends a TICK: it is
given neither in the step that takes a command word nor to a command that requests a send. That the step that takes a
TICK's word never answers with a packet rests on the dispatch being a step of its own, the model's choice
(notes/assumptions/1.md); that only a TICK forwards is R73's. -/
def Obligations.AtMostOneResponsePerStep : Prop :=
  ∀ s t : State, step s = .next t →
    t.rsps = s.rsps ∨ ∃ r, t.rsps = s.rsps ++ [r] ∧
      (Inv s → r.fwd ≠ none → s.ctl ≠ .idle ∧ ∀ op, s.ctl.sendFor ≠ some (.request op))

/-- 00_scope.md R6, 10_state.md R22: time never decreases, and the instance's parameters are never written. -/
def Obligations.TimeAdvancesParametersStay : Prop :=
  ∀ s t : State, step s = .next t → s.time ≤ t.time ∧ t.cfg = s.cfg

/-- 00_scope.md R7: a host command runs until it has answered, a frame is to be dispatched, an answer is missing or the
reset input is asserted. That it then rests, rather than takes an answer, is the model's choice (notes/assumptions/2.md). -/
def Obligations.CommandsRunUntilTheyRest : Prop :=
  ∀ (i : Instr) (s t : State), i.port = .command → exec i s = .next t → t.resting

/-- 93_implementation_defined.md U2, 10_state.md R23, R24: what CHK_ACC holds, and what TXBUF holds outside SEND_GATED,
influences nothing but what they hold later: two states that differ there alone step to states that differ there alone, and
so on for a whole run. -/
def Obligations.WorkingRegistersNeverInfluence : Prop :=
  ∀ (s t : State) (buf : List Byte) (acc : Half), (s.ctl.sender ≠ none → buf = s.txbuf) → step s = .next t →
    ∃ buf' acc', (t.ctl.sender ≠ none → buf' = t.txbuf) ∧
      step { s with txbuf := buf, chkAcc := acc } = .next { t with txbuf := buf', chkAcc := acc' }

/-- 93_implementation_defined.md U1, 10_state.md R17, 43_delivery_manager.md R137 b: while nothing is pending, and while
START_PENDING is not finished, PEND_NEXT_RETRY influences nothing but itself: two states that differ there alone step to
states that differ there alone, and only while that still holds, and so on for a whole run. -/
def Obligations.RetryTimeUnreadWhileEmpty : Prop :=
  ∀ (s t : State) (n : Nat), (s.pend ≠ none → s.ctl.starting = false → n = s.pendNextRetry) → step s = .next t →
    ∃ n', (t.pend ≠ none → t.ctl.starting = false → n' = t.pendNextRetry) ∧
      step { s with pendNextRetry := n } = .next { t with pendNextRetry := n' }

/-! ### From SEND_GATED to the response -/

/-- 43_delivery_manager.md R137, R139, 44_node_session.md R155 to R158: when the transmission of a request or a
retransmission has ended, by whatever arbitration, the time is sampled once, PEND_NEXT_RETRY armed and the command answered
OK with its events and, in a TICK, the packet it forwards; DISARMED then sets MODE, the others leave it. That an answer of
the clock below an earlier one is taken as the earlier one is the model's choice (notes/assumptions/3.md). -/
def Obligations.RequestOrRetryAnswersOnceArmed : Prop :=
  ∀ (s : State) (k : Sender) (x : Nat) (ns : List Nat), s.ctl = .timeSample (.arm k) → s.rst = none → s.nowQ = x :: ns →
    let answered : State := { s with
      nowQ := ns
      time := max s.time x
      pendNextRetry := max s.time x + s.cfg.retryInterval
      ctl := .idle
      rsps := s.rsps ++ [⟨.ok, s.events, s.fwd⟩]
      events := []
      fwd := none
      trace := s.trace ++ [.now (max s.time x)] }
    (k = .request .unableToArm ∨ k = .request .strike ∨ k = .retry → settle s = answered) ∧
    (k = .request .disarmed → settle s = { answered with mode := .disarmed })

/-- 44_node_session.md R156 to R158, 43_delivery_manager.md R136, R137, 42_backoff_arbiter.md R125: with an empty slot the
three commands that request a send allocate the successor of LAST_SEQ, fill the slot and enter SEND_GATED with its frame,
whatever the line shows; the statements about the arbiter and `RequestOrRetryAnswersOnceArmed` go on from there. What CHK_ACC
holds after ENCODE is the model's choice (notes/assumptions/18.md). -/
def Obligations.RequestsEnterSendGated : Prop :=
  ∀ s : State, s.ready → s.pend = none →
    let entered (op : SendCmd) (type : Byte) : State := { s with
      lastSeq := s.lastSeq + 1#8
      pend := some ⟨0x0000#16, type, s.lastSeq + 1#8, ⟨[], Nat.zero_le _⟩⟩
      ctl := .arbSample (.request op)
      txbuf := frameBytes s.addr 0x0000#16 type (s.lastSeq + 1#8) []
      chkAcc := chkSum (frameBody s.addr 0x0000#16 type (s.lastSeq + 1#8) [])
      events := []
      fwd := none }
    exec .unableToArm s = .next (settle (entered .unableToArm 0x07#8)) ∧
    (s.mode ≠ .disarmed →
      exec .strike s = .next (settle (entered .strike 0x06#8)) ∧
      exec .disarmed s = .next (settle (entered .disarmed 0x08#8)))

/-- 30_encoding.md R73, 60_exceptions.md R190: the codes of the two tables, and which answer goes with which: OK with events
that end no command, BUSY with TXQ_FULL, REJECTED with TERMINAL_REJECT, BAD_EDGE with ILLEGAL_MODE_EDGE and ILLEGAL with
ILLEGAL_CMD as the one event. -/
def Obligations.ResponseCodesFollowTheTables : Prop :=
  (Status.ok.code = 0#3 ∧ Status.busy.code = 1#3 ∧ Status.rejected.code = 2#3 ∧ Status.badEdge.code = 3#3 ∧
    Status.illegal.code = 4#3) ∧
  (∀ (s c : Half) (b : Byte) (n : Nat) (st : Stage) (op : SendCmd) (m m' : Mode) (v : Bool),
    (Event.checksumError s c).code = 1 ∧ (Event.shortRead b n).code = 2 ∧ (Event.timeout st).code = 3 ∧
    (Event.lengthError b).code = 4 ∧ (Event.deliveryTimeout b).code = 5 ∧ Event.busBusy.code = 6 ∧
    Event.txqFull.code = 7 ∧ (Event.terminalReject op).code = 8 ∧ (Event.illegalModeEdge m m').code = 9 ∧
    (Event.illegalCmd b).code = 10 ∧ (Event.acked b).code = 11 ∧ (Event.ackIgnored b).code = 12 ∧
    (Event.drained v).code = 13) ∧
  ∀ (s t : State) (r : Response), Inv s → step s = .next t → t.rsps = s.rsps ++ [r] →
    (r.statusCode = 0#3 ∧ ∀ c ∈ r.eventCodes, c < 7 ∨ 10 < c) ∨ (r.statusCode = 1#3 ∧ r.eventCodes = [7]) ∨
    (r.statusCode = 2#3 ∧ r.eventCodes = [8]) ∨ (r.statusCode = 3#3 ∧ r.eventCodes = [9]) ∨
    (r.statusCode = 4#3 ∧ r.eventCodes = [10])
end

