-- ==== Sys2Proof/Laws/State.lean ====
section
/-! SUPPORT. One lemma per field per update of State, all by rfl, so that no later proof unfolds a record update. -/

namespace Sys2Proof.Machine

/-! ### State.call -/

@[simp] theorem State.call_addr (c : EnvCall) (s : State) : (s.call c).addr = s.addr := rfl
@[simp] theorem State.call_lastSeq (c : EnvCall) (s : State) : (s.call c).lastSeq = s.lastSeq := rfl
@[simp] theorem State.call_mode (c : EnvCall) (s : State) : (s.call c).mode = s.mode := rfl
@[simp] theorem State.call_pend (c : EnvCall) (s : State) : (s.call c).pend = s.pend := rfl
@[simp] theorem State.call_pendNextRetry (c : EnvCall) (s : State) : (s.call c).pendNextRetry = s.pendNextRetry := rfl
@[simp] theorem State.call_bq (c : EnvCall) (s : State) : (s.call c).bq = s.bq := rfl
@[simp] theorem State.call_sendIntent (c : EnvCall) (s : State) : (s.call c).sendIntent = s.sendIntent := rfl
@[simp] theorem State.call_ctl (c : EnvCall) (s : State) : (s.call c).ctl = s.ctl := rfl
@[simp] theorem State.call_txbuf (c : EnvCall) (s : State) : (s.call c).txbuf = s.txbuf := rfl
@[simp] theorem State.call_rxbuf (c : EnvCall) (s : State) : (s.call c).rxbuf = s.rxbuf := rfl
@[simp] theorem State.call_chkAcc (c : EnvCall) (s : State) : (s.call c).chkAcc = s.chkAcc := rfl
@[simp] theorem State.call_events (c : EnvCall) (s : State) : (s.call c).events = s.events := rfl
@[simp] theorem State.call_fwd (c : EnvCall) (s : State) : (s.call c).fwd = s.fwd := rfl
@[simp] theorem State.call_time (c : EnvCall) (s : State) : (s.call c).time = s.time := rfl
@[simp] theorem State.call_cfg (c : EnvCall) (s : State) : (s.call c).cfg = s.cfg := rfl
@[simp] theorem State.call_rst (c : EnvCall) (s : State) : (s.call c).rst = s.rst := rfl
@[simp] theorem State.call_cmdQ (c : EnvCall) (s : State) : (s.call c).cmdQ = s.cmdQ := rfl
@[simp] theorem State.call_lineQ (c : EnvCall) (s : State) : (s.call c).lineQ = s.lineQ := rfl
@[simp] theorem State.call_burstQ (c : EnvCall) (s : State) : (s.call c).burstQ = s.burstQ := rfl
@[simp] theorem State.call_drawQ (c : EnvCall) (s : State) : (s.call c).drawQ = s.drawQ := rfl
@[simp] theorem State.call_nowQ (c : EnvCall) (s : State) : (s.call c).nowQ = s.nowQ := rfl
@[simp] theorem State.call_trace (c : EnvCall) (s : State) : (s.call c).trace = s.trace ++ [c] := rfl
@[simp] theorem State.call_rsps (c : EnvCall) (s : State) : (s.call c).rsps = s.rsps := rfl

/-! ### goto -/

@[simp] theorem goto_addr (c : Ctl) (s : State) : (goto c s).addr = s.addr := rfl
@[simp] theorem goto_lastSeq (c : Ctl) (s : State) : (goto c s).lastSeq = s.lastSeq := rfl
@[simp] theorem goto_mode (c : Ctl) (s : State) : (goto c s).mode = s.mode := rfl
@[simp] theorem goto_pend (c : Ctl) (s : State) : (goto c s).pend = s.pend := rfl
@[simp] theorem goto_pendNextRetry (c : Ctl) (s : State) : (goto c s).pendNextRetry = s.pendNextRetry := rfl
@[simp] theorem goto_bq (c : Ctl) (s : State) : (goto c s).bq = s.bq := rfl
@[simp] theorem goto_sendIntent (c : Ctl) (s : State) : (goto c s).sendIntent = s.sendIntent := rfl
@[simp] theorem goto_ctl (c : Ctl) (s : State) : (goto c s).ctl = c := rfl
@[simp] theorem goto_txbuf (c : Ctl) (s : State) : (goto c s).txbuf = s.txbuf := rfl
@[simp] theorem goto_rxbuf (c : Ctl) (s : State) : (goto c s).rxbuf = s.rxbuf := rfl
@[simp] theorem goto_chkAcc (c : Ctl) (s : State) : (goto c s).chkAcc = s.chkAcc := rfl
@[simp] theorem goto_events (c : Ctl) (s : State) : (goto c s).events = s.events := rfl
@[simp] theorem goto_fwd (c : Ctl) (s : State) : (goto c s).fwd = s.fwd := rfl
@[simp] theorem goto_time (c : Ctl) (s : State) : (goto c s).time = s.time := rfl
@[simp] theorem goto_cfg (c : Ctl) (s : State) : (goto c s).cfg = s.cfg := rfl
@[simp] theorem goto_rst (c : Ctl) (s : State) : (goto c s).rst = s.rst := rfl
@[simp] theorem goto_cmdQ (c : Ctl) (s : State) : (goto c s).cmdQ = s.cmdQ := rfl
@[simp] theorem goto_lineQ (c : Ctl) (s : State) : (goto c s).lineQ = s.lineQ := rfl
@[simp] theorem goto_burstQ (c : Ctl) (s : State) : (goto c s).burstQ = s.burstQ := rfl
@[simp] theorem goto_drawQ (c : Ctl) (s : State) : (goto c s).drawQ = s.drawQ := rfl
@[simp] theorem goto_nowQ (c : Ctl) (s : State) : (goto c s).nowQ = s.nowQ := rfl
@[simp] theorem goto_trace (c : Ctl) (s : State) : (goto c s).trace = s.trace := rfl
@[simp] theorem goto_rsps (c : Ctl) (s : State) : (goto c s).rsps = s.rsps := rfl

/-! ### emit -/

@[simp] theorem emit_addr (e : Event) (s : State) : (emit e s).addr = s.addr := rfl
@[simp] theorem emit_lastSeq (e : Event) (s : State) : (emit e s).lastSeq = s.lastSeq := rfl
@[simp] theorem emit_mode (e : Event) (s : State) : (emit e s).mode = s.mode := rfl
@[simp] theorem emit_pend (e : Event) (s : State) : (emit e s).pend = s.pend := rfl
@[simp] theorem emit_pendNextRetry (e : Event) (s : State) : (emit e s).pendNextRetry = s.pendNextRetry := rfl
@[simp] theorem emit_bq (e : Event) (s : State) : (emit e s).bq = s.bq := rfl
@[simp] theorem emit_sendIntent (e : Event) (s : State) : (emit e s).sendIntent = s.sendIntent := rfl
@[simp] theorem emit_ctl (e : Event) (s : State) : (emit e s).ctl = s.ctl := rfl
@[simp] theorem emit_txbuf (e : Event) (s : State) : (emit e s).txbuf = s.txbuf := rfl
@[simp] theorem emit_rxbuf (e : Event) (s : State) : (emit e s).rxbuf = s.rxbuf := rfl
@[simp] theorem emit_chkAcc (e : Event) (s : State) : (emit e s).chkAcc = s.chkAcc := rfl
@[simp] theorem emit_events (e : Event) (s : State) : (emit e s).events = s.events ++ [e] := rfl
@[simp] theorem emit_fwd (e : Event) (s : State) : (emit e s).fwd = s.fwd := rfl
@[simp] theorem emit_time (e : Event) (s : State) : (emit e s).time = s.time := rfl
@[simp] theorem emit_cfg (e : Event) (s : State) : (emit e s).cfg = s.cfg := rfl
@[simp] theorem emit_rst (e : Event) (s : State) : (emit e s).rst = s.rst := rfl
@[simp] theorem emit_cmdQ (e : Event) (s : State) : (emit e s).cmdQ = s.cmdQ := rfl
@[simp] theorem emit_lineQ (e : Event) (s : State) : (emit e s).lineQ = s.lineQ := rfl
@[simp] theorem emit_burstQ (e : Event) (s : State) : (emit e s).burstQ = s.burstQ := rfl
@[simp] theorem emit_drawQ (e : Event) (s : State) : (emit e s).drawQ = s.drawQ := rfl
@[simp] theorem emit_nowQ (e : Event) (s : State) : (emit e s).nowQ = s.nowQ := rfl
@[simp] theorem emit_trace (e : Event) (s : State) : (emit e s).trace = s.trace := rfl
@[simp] theorem emit_rsps (e : Event) (s : State) : (emit e s).rsps = s.rsps := rfl

/-! ### respond -/

@[simp] theorem respond_addr (st : Status) (s : State) : (respond st s).addr = s.addr := rfl
@[simp] theorem respond_lastSeq (st : Status) (s : State) : (respond st s).lastSeq = s.lastSeq := rfl
@[simp] theorem respond_mode (st : Status) (s : State) : (respond st s).mode = s.mode := rfl
@[simp] theorem respond_pend (st : Status) (s : State) : (respond st s).pend = s.pend := rfl
@[simp] theorem respond_pendNextRetry (st : Status) (s : State) : (respond st s).pendNextRetry = s.pendNextRetry := rfl
@[simp] theorem respond_bq (st : Status) (s : State) : (respond st s).bq = s.bq := rfl
@[simp] theorem respond_sendIntent (st : Status) (s : State) : (respond st s).sendIntent = s.sendIntent := rfl
@[simp] theorem respond_ctl (st : Status) (s : State) : (respond st s).ctl = .idle := rfl
@[simp] theorem respond_txbuf (st : Status) (s : State) : (respond st s).txbuf = s.txbuf := rfl
@[simp] theorem respond_rxbuf (st : Status) (s : State) : (respond st s).rxbuf = s.rxbuf := rfl
@[simp] theorem respond_chkAcc (st : Status) (s : State) : (respond st s).chkAcc = s.chkAcc := rfl
@[simp] theorem respond_events (st : Status) (s : State) : (respond st s).events = [] := rfl
@[simp] theorem respond_fwd (st : Status) (s : State) : (respond st s).fwd = none := rfl
@[simp] theorem respond_time (st : Status) (s : State) : (respond st s).time = s.time := rfl
@[simp] theorem respond_cfg (st : Status) (s : State) : (respond st s).cfg = s.cfg := rfl
@[simp] theorem respond_rst (st : Status) (s : State) : (respond st s).rst = s.rst := rfl
@[simp] theorem respond_cmdQ (st : Status) (s : State) : (respond st s).cmdQ = s.cmdQ := rfl
@[simp] theorem respond_lineQ (st : Status) (s : State) : (respond st s).lineQ = s.lineQ := rfl
@[simp] theorem respond_burstQ (st : Status) (s : State) : (respond st s).burstQ = s.burstQ := rfl
@[simp] theorem respond_drawQ (st : Status) (s : State) : (respond st s).drawQ = s.drawQ := rfl
@[simp] theorem respond_nowQ (st : Status) (s : State) : (respond st s).nowQ = s.nowQ := rfl
@[simp] theorem respond_trace (st : Status) (s : State) : (respond st s).trace = s.trace := rfl
@[simp] theorem respond_rsps (st : Status) (s : State) : (respond st s).rsps = s.rsps ++ [⟨st, s.events, s.fwd⟩] := rfl

/-! ### flush -/

@[simp] theorem flush_addr (s : State) : (flush s).addr = s.addr := rfl
@[simp] theorem flush_lastSeq (s : State) : (flush s).lastSeq = s.lastSeq := rfl
@[simp] theorem flush_mode (s : State) : (flush s).mode = s.mode := rfl
@[simp] theorem flush_pend (s : State) : (flush s).pend = s.pend := rfl
@[simp] theorem flush_pendNextRetry (s : State) : (flush s).pendNextRetry = s.pendNextRetry := rfl
@[simp] theorem flush_bq (s : State) : (flush s).bq = s.bq := rfl
@[simp] theorem flush_sendIntent (s : State) : (flush s).sendIntent = s.sendIntent := rfl
@[simp] theorem flush_ctl (s : State) : (flush s).ctl = s.ctl := rfl
@[simp] theorem flush_txbuf (s : State) : (flush s).txbuf = s.txbuf := rfl
@[simp] theorem flush_rxbuf (s : State) : (flush s).rxbuf = [] := rfl
@[simp] theorem flush_chkAcc (s : State) : (flush s).chkAcc = s.chkAcc := rfl
@[simp] theorem flush_events (s : State) : (flush s).events = s.events := rfl
@[simp] theorem flush_fwd (s : State) : (flush s).fwd = s.fwd := rfl
@[simp] theorem flush_time (s : State) : (flush s).time = s.time := rfl
@[simp] theorem flush_cfg (s : State) : (flush s).cfg = s.cfg := rfl
@[simp] theorem flush_rst (s : State) : (flush s).rst = s.rst := rfl
@[simp] theorem flush_cmdQ (s : State) : (flush s).cmdQ = s.cmdQ := rfl
@[simp] theorem flush_lineQ (s : State) : (flush s).lineQ = s.lineQ := rfl
@[simp] theorem flush_burstQ (s : State) : (flush s).burstQ = s.burstQ := rfl
@[simp] theorem flush_drawQ (s : State) : (flush s).drawQ = s.drawQ := rfl
@[simp] theorem flush_nowQ (s : State) : (flush s).nowQ = s.nowQ := rfl
@[simp] theorem flush_trace (s : State) : (flush s).trace = s.trace := rfl
@[simp] theorem flush_rsps (s : State) : (flush s).rsps = s.rsps := rfl

/-! ### accept -/

@[simp] theorem accept_addr (s : State) : (accept s).addr = s.addr := rfl
@[simp] theorem accept_lastSeq (s : State) : (accept s).lastSeq = s.lastSeq := rfl
@[simp] theorem accept_mode (s : State) : (accept s).mode = s.mode := rfl
@[simp] theorem accept_pend (s : State) : (accept s).pend = s.pend := rfl
@[simp] theorem accept_pendNextRetry (s : State) : (accept s).pendNextRetry = s.pendNextRetry := rfl
@[simp] theorem accept_bq (s : State) : (accept s).bq = s.bq := rfl
@[simp] theorem accept_sendIntent (s : State) : (accept s).sendIntent = s.sendIntent := rfl
@[simp] theorem accept_ctl (s : State) : (accept s).ctl = s.ctl := rfl
@[simp] theorem accept_txbuf (s : State) : (accept s).txbuf = s.txbuf := rfl
@[simp] theorem accept_rxbuf (s : State) : (accept s).rxbuf = s.rxbuf := rfl
@[simp] theorem accept_chkAcc (s : State) : (accept s).chkAcc = s.chkAcc := rfl
@[simp] theorem accept_events (s : State) : (accept s).events = [] := rfl
@[simp] theorem accept_fwd (s : State) : (accept s).fwd = none := rfl
@[simp] theorem accept_time (s : State) : (accept s).time = s.time := rfl
@[simp] theorem accept_cfg (s : State) : (accept s).cfg = s.cfg := rfl
@[simp] theorem accept_rst (s : State) : (accept s).rst = s.rst := rfl
@[simp] theorem accept_cmdQ (s : State) : (accept s).cmdQ = s.cmdQ := rfl
@[simp] theorem accept_lineQ (s : State) : (accept s).lineQ = s.lineQ := rfl
@[simp] theorem accept_burstQ (s : State) : (accept s).burstQ = s.burstQ := rfl
@[simp] theorem accept_drawQ (s : State) : (accept s).drawQ = s.drawQ := rfl
@[simp] theorem accept_nowQ (s : State) : (accept s).nowQ = s.nowQ := rfl
@[simp] theorem accept_trace (s : State) : (accept s).trace = s.trace := rfl
@[simp] theorem accept_rsps (s : State) : (accept s).rsps = s.rsps := rfl

/-! ### observeSeq -/

@[simp] theorem observeSeq_addr (q : Byte) (s : State) : (observeSeq q s).addr = s.addr := rfl
@[simp] theorem observeSeq_lastSeq (q : Byte) (s : State) : (observeSeq q s).lastSeq = q := rfl
@[simp] theorem observeSeq_mode (q : Byte) (s : State) : (observeSeq q s).mode = s.mode := rfl
@[simp] theorem observeSeq_pend (q : Byte) (s : State) : (observeSeq q s).pend = s.pend := rfl
@[simp] theorem observeSeq_pendNextRetry (q : Byte) (s : State) : (observeSeq q s).pendNextRetry = s.pendNextRetry := rfl
@[simp] theorem observeSeq_bq (q : Byte) (s : State) : (observeSeq q s).bq = s.bq := rfl
@[simp] theorem observeSeq_sendIntent (q : Byte) (s : State) : (observeSeq q s).sendIntent = s.sendIntent := rfl
@[simp] theorem observeSeq_ctl (q : Byte) (s : State) : (observeSeq q s).ctl = s.ctl := rfl
@[simp] theorem observeSeq_txbuf (q : Byte) (s : State) : (observeSeq q s).txbuf = s.txbuf := rfl
@[simp] theorem observeSeq_rxbuf (q : Byte) (s : State) : (observeSeq q s).rxbuf = s.rxbuf := rfl
@[simp] theorem observeSeq_chkAcc (q : Byte) (s : State) : (observeSeq q s).chkAcc = s.chkAcc := rfl
@[simp] theorem observeSeq_events (q : Byte) (s : State) : (observeSeq q s).events = s.events := rfl
@[simp] theorem observeSeq_fwd (q : Byte) (s : State) : (observeSeq q s).fwd = s.fwd := rfl
@[simp] theorem observeSeq_time (q : Byte) (s : State) : (observeSeq q s).time = s.time := rfl
@[simp] theorem observeSeq_cfg (q : Byte) (s : State) : (observeSeq q s).cfg = s.cfg := rfl
@[simp] theorem observeSeq_rst (q : Byte) (s : State) : (observeSeq q s).rst = s.rst := rfl
@[simp] theorem observeSeq_cmdQ (q : Byte) (s : State) : (observeSeq q s).cmdQ = s.cmdQ := rfl
@[simp] theorem observeSeq_lineQ (q : Byte) (s : State) : (observeSeq q s).lineQ = s.lineQ := rfl
@[simp] theorem observeSeq_burstQ (q : Byte) (s : State) : (observeSeq q s).burstQ = s.burstQ := rfl
@[simp] theorem observeSeq_drawQ (q : Byte) (s : State) : (observeSeq q s).drawQ = s.drawQ := rfl
@[simp] theorem observeSeq_nowQ (q : Byte) (s : State) : (observeSeq q s).nowQ = s.nowQ := rfl
@[simp] theorem observeSeq_trace (q : Byte) (s : State) : (observeSeq q s).trace = s.trace := rfl
@[simp] theorem observeSeq_rsps (q : Byte) (s : State) : (observeSeq q s).rsps = s.rsps := rfl

/-! ### keepForward -/

@[simp] theorem keepForward_addr (f : Forwarded) (s : State) : (keepForward f s).addr = s.addr := rfl
@[simp] theorem keepForward_lastSeq (f : Forwarded) (s : State) : (keepForward f s).lastSeq = s.lastSeq := rfl
@[simp] theorem keepForward_mode (f : Forwarded) (s : State) : (keepForward f s).mode = s.mode := rfl
@[simp] theorem keepForward_pend (f : Forwarded) (s : State) : (keepForward f s).pend = s.pend := rfl
@[simp] theorem keepForward_pendNextRetry (f : Forwarded) (s : State) : (keepForward f s).pendNextRetry = s.pendNextRetry := rfl
@[simp] theorem keepForward_bq (f : Forwarded) (s : State) : (keepForward f s).bq = s.bq := rfl
@[simp] theorem keepForward_sendIntent (f : Forwarded) (s : State) : (keepForward f s).sendIntent = s.sendIntent := rfl
@[simp] theorem keepForward_ctl (f : Forwarded) (s : State) : (keepForward f s).ctl = s.ctl := rfl
@[simp] theorem keepForward_txbuf (f : Forwarded) (s : State) : (keepForward f s).txbuf = s.txbuf := rfl
@[simp] theorem keepForward_rxbuf (f : Forwarded) (s : State) : (keepForward f s).rxbuf = s.rxbuf := rfl
@[simp] theorem keepForward_chkAcc (f : Forwarded) (s : State) : (keepForward f s).chkAcc = s.chkAcc := rfl
@[simp] theorem keepForward_events (f : Forwarded) (s : State) : (keepForward f s).events = s.events := rfl
@[simp] theorem keepForward_fwd (f : Forwarded) (s : State) : (keepForward f s).fwd = some f := rfl
@[simp] theorem keepForward_time (f : Forwarded) (s : State) : (keepForward f s).time = s.time := rfl
@[simp] theorem keepForward_cfg (f : Forwarded) (s : State) : (keepForward f s).cfg = s.cfg := rfl
@[simp] theorem keepForward_rst (f : Forwarded) (s : State) : (keepForward f s).rst = s.rst := rfl
@[simp] theorem keepForward_cmdQ (f : Forwarded) (s : State) : (keepForward f s).cmdQ = s.cmdQ := rfl
@[simp] theorem keepForward_lineQ (f : Forwarded) (s : State) : (keepForward f s).lineQ = s.lineQ := rfl
@[simp] theorem keepForward_burstQ (f : Forwarded) (s : State) : (keepForward f s).burstQ = s.burstQ := rfl
@[simp] theorem keepForward_drawQ (f : Forwarded) (s : State) : (keepForward f s).drawQ = s.drawQ := rfl
@[simp] theorem keepForward_nowQ (f : Forwarded) (s : State) : (keepForward f s).nowQ = s.nowQ := rfl
@[simp] theorem keepForward_trace (f : Forwarded) (s : State) : (keepForward f s).trace = s.trace := rfl
@[simp] theorem keepForward_rsps (f : Forwarded) (s : State) : (keepForward f s).rsps = s.rsps := rfl

/-! ### sumBytes -/

@[simp] theorem sumBytes_addr (bs : List Byte) (s : State) : (sumBytes bs s).addr = s.addr := rfl
@[simp] theorem sumBytes_lastSeq (bs : List Byte) (s : State) : (sumBytes bs s).lastSeq = s.lastSeq := rfl
@[simp] theorem sumBytes_mode (bs : List Byte) (s : State) : (sumBytes bs s).mode = s.mode := rfl
@[simp] theorem sumBytes_pend (bs : List Byte) (s : State) : (sumBytes bs s).pend = s.pend := rfl
@[simp] theorem sumBytes_pendNextRetry (bs : List Byte) (s : State) : (sumBytes bs s).pendNextRetry = s.pendNextRetry := rfl
@[simp] theorem sumBytes_bq (bs : List Byte) (s : State) : (sumBytes bs s).bq = s.bq := rfl
@[simp] theorem sumBytes_sendIntent (bs : List Byte) (s : State) : (sumBytes bs s).sendIntent = s.sendIntent := rfl
@[simp] theorem sumBytes_ctl (bs : List Byte) (s : State) : (sumBytes bs s).ctl = s.ctl := rfl
@[simp] theorem sumBytes_txbuf (bs : List Byte) (s : State) : (sumBytes bs s).txbuf = s.txbuf := rfl
@[simp] theorem sumBytes_rxbuf (bs : List Byte) (s : State) : (sumBytes bs s).rxbuf = s.rxbuf := rfl
@[simp] theorem sumBytes_chkAcc (bs : List Byte) (s : State) : (sumBytes bs s).chkAcc = chkSum bs := rfl
@[simp] theorem sumBytes_events (bs : List Byte) (s : State) : (sumBytes bs s).events = s.events := rfl
@[simp] theorem sumBytes_fwd (bs : List Byte) (s : State) : (sumBytes bs s).fwd = s.fwd := rfl
@[simp] theorem sumBytes_time (bs : List Byte) (s : State) : (sumBytes bs s).time = s.time := rfl
@[simp] theorem sumBytes_cfg (bs : List Byte) (s : State) : (sumBytes bs s).cfg = s.cfg := rfl
@[simp] theorem sumBytes_rst (bs : List Byte) (s : State) : (sumBytes bs s).rst = s.rst := rfl
@[simp] theorem sumBytes_cmdQ (bs : List Byte) (s : State) : (sumBytes bs s).cmdQ = s.cmdQ := rfl
@[simp] theorem sumBytes_lineQ (bs : List Byte) (s : State) : (sumBytes bs s).lineQ = s.lineQ := rfl
@[simp] theorem sumBytes_burstQ (bs : List Byte) (s : State) : (sumBytes bs s).burstQ = s.burstQ := rfl
@[simp] theorem sumBytes_drawQ (bs : List Byte) (s : State) : (sumBytes bs s).drawQ = s.drawQ := rfl
@[simp] theorem sumBytes_nowQ (bs : List Byte) (s : State) : (sumBytes bs s).nowQ = s.nowQ := rfl
@[simp] theorem sumBytes_trace (bs : List Byte) (s : State) : (sumBytes bs s).trace = s.trace := rfl
@[simp] theorem sumBytes_rsps (bs : List Byte) (s : State) : (sumBytes bs s).rsps = s.rsps := rfl

/-! ### setIntent -/

@[simp] theorem setIntent_addr (v : Bool) (s : State) : (setIntent v s).addr = s.addr := rfl
@[simp] theorem setIntent_lastSeq (v : Bool) (s : State) : (setIntent v s).lastSeq = s.lastSeq := rfl
@[simp] theorem setIntent_mode (v : Bool) (s : State) : (setIntent v s).mode = s.mode := rfl
@[simp] theorem setIntent_pend (v : Bool) (s : State) : (setIntent v s).pend = s.pend := rfl
@[simp] theorem setIntent_pendNextRetry (v : Bool) (s : State) : (setIntent v s).pendNextRetry = s.pendNextRetry := rfl
@[simp] theorem setIntent_bq (v : Bool) (s : State) : (setIntent v s).bq = s.bq := rfl
@[simp] theorem setIntent_sendIntent (v : Bool) (s : State) : (setIntent v s).sendIntent = v := rfl
@[simp] theorem setIntent_ctl (v : Bool) (s : State) : (setIntent v s).ctl = s.ctl := rfl
@[simp] theorem setIntent_txbuf (v : Bool) (s : State) : (setIntent v s).txbuf = s.txbuf := rfl
@[simp] theorem setIntent_rxbuf (v : Bool) (s : State) : (setIntent v s).rxbuf = s.rxbuf := rfl
@[simp] theorem setIntent_chkAcc (v : Bool) (s : State) : (setIntent v s).chkAcc = s.chkAcc := rfl
@[simp] theorem setIntent_events (v : Bool) (s : State) : (setIntent v s).events = s.events := rfl
@[simp] theorem setIntent_fwd (v : Bool) (s : State) : (setIntent v s).fwd = s.fwd := rfl
@[simp] theorem setIntent_time (v : Bool) (s : State) : (setIntent v s).time = s.time := rfl
@[simp] theorem setIntent_cfg (v : Bool) (s : State) : (setIntent v s).cfg = s.cfg := rfl
@[simp] theorem setIntent_rst (v : Bool) (s : State) : (setIntent v s).rst = s.rst := rfl
@[simp] theorem setIntent_cmdQ (v : Bool) (s : State) : (setIntent v s).cmdQ = s.cmdQ := rfl
@[simp] theorem setIntent_lineQ (v : Bool) (s : State) : (setIntent v s).lineQ = s.lineQ := rfl
@[simp] theorem setIntent_burstQ (v : Bool) (s : State) : (setIntent v s).burstQ = s.burstQ := rfl
@[simp] theorem setIntent_drawQ (v : Bool) (s : State) : (setIntent v s).drawQ = s.drawQ := rfl
@[simp] theorem setIntent_nowQ (v : Bool) (s : State) : (setIntent v s).nowQ = s.nowQ := rfl
@[simp] theorem setIntent_trace (v : Bool) (s : State) : (setIntent v s).trace = s.trace ++ [.setSendIntent v] := rfl
@[simp] theorem setIntent_rsps (v : Bool) (s : State) : (setIntent v s).rsps = s.rsps := rfl

/-! ### armRetry -/

@[simp] theorem armRetry_addr (n : Nat) (s : State) : (armRetry n s).addr = s.addr := rfl
@[simp] theorem armRetry_lastSeq (n : Nat) (s : State) : (armRetry n s).lastSeq = s.lastSeq := rfl
@[simp] theorem armRetry_mode (n : Nat) (s : State) : (armRetry n s).mode = s.mode := rfl
@[simp] theorem armRetry_pend (n : Nat) (s : State) : (armRetry n s).pend = s.pend := rfl
@[simp] theorem armRetry_pendNextRetry (n : Nat) (s : State) : (armRetry n s).pendNextRetry = n + s.cfg.retryInterval := rfl
@[simp] theorem armRetry_bq (n : Nat) (s : State) : (armRetry n s).bq = s.bq := rfl
@[simp] theorem armRetry_sendIntent (n : Nat) (s : State) : (armRetry n s).sendIntent = s.sendIntent := rfl
@[simp] theorem armRetry_ctl (n : Nat) (s : State) : (armRetry n s).ctl = s.ctl := rfl
@[simp] theorem armRetry_txbuf (n : Nat) (s : State) : (armRetry n s).txbuf = s.txbuf := rfl
@[simp] theorem armRetry_rxbuf (n : Nat) (s : State) : (armRetry n s).rxbuf = s.rxbuf := rfl
@[simp] theorem armRetry_chkAcc (n : Nat) (s : State) : (armRetry n s).chkAcc = s.chkAcc := rfl
@[simp] theorem armRetry_events (n : Nat) (s : State) : (armRetry n s).events = s.events := rfl
@[simp] theorem armRetry_fwd (n : Nat) (s : State) : (armRetry n s).fwd = s.fwd := rfl
@[simp] theorem armRetry_time (n : Nat) (s : State) : (armRetry n s).time = s.time := rfl
@[simp] theorem armRetry_cfg (n : Nat) (s : State) : (armRetry n s).cfg = s.cfg := rfl
@[simp] theorem armRetry_rst (n : Nat) (s : State) : (armRetry n s).rst = s.rst := rfl
@[simp] theorem armRetry_cmdQ (n : Nat) (s : State) : (armRetry n s).cmdQ = s.cmdQ := rfl
@[simp] theorem armRetry_lineQ (n : Nat) (s : State) : (armRetry n s).lineQ = s.lineQ := rfl
@[simp] theorem armRetry_burstQ (n : Nat) (s : State) : (armRetry n s).burstQ = s.burstQ := rfl
@[simp] theorem armRetry_drawQ (n : Nat) (s : State) : (armRetry n s).drawQ = s.drawQ := rfl
@[simp] theorem armRetry_nowQ (n : Nat) (s : State) : (armRetry n s).nowQ = s.nowQ := rfl
@[simp] theorem armRetry_trace (n : Nat) (s : State) : (armRetry n s).trace = s.trace := rfl
@[simp] theorem armRetry_rsps (n : Nat) (s : State) : (armRetry n s).rsps = s.rsps := rfl

/-! ### loadFrame -/

@[simp] theorem loadFrame_addr (d : Half) (ty q : Byte) (p : Payload) (s : State) : (loadFrame d ty q p s).addr = s.addr := rfl
@[simp] theorem loadFrame_lastSeq (d : Half) (ty q : Byte) (p : Payload) (s : State) : (loadFrame d ty q p s).lastSeq = s.lastSeq := rfl
@[simp] theorem loadFrame_mode (d : Half) (ty q : Byte) (p : Payload) (s : State) : (loadFrame d ty q p s).mode = s.mode := rfl
@[simp] theorem loadFrame_pend (d : Half) (ty q : Byte) (p : Payload) (s : State) : (loadFrame d ty q p s).pend = s.pend := rfl
@[simp] theorem loadFrame_pendNextRetry (d : Half) (ty q : Byte) (p : Payload) (s : State) : (loadFrame d ty q p s).pendNextRetry = s.pendNextRetry := rfl
@[simp] theorem loadFrame_bq (d : Half) (ty q : Byte) (p : Payload) (s : State) : (loadFrame d ty q p s).bq = s.bq := rfl
@[simp] theorem loadFrame_sendIntent (d : Half) (ty q : Byte) (p : Payload) (s : State) : (loadFrame d ty q p s).sendIntent = s.sendIntent := rfl
@[simp] theorem loadFrame_ctl (d : Half) (ty q : Byte) (p : Payload) (s : State) : (loadFrame d ty q p s).ctl = s.ctl := rfl
@[simp] theorem loadFrame_txbuf (d : Half) (ty q : Byte) (p : Payload) (s : State) : (loadFrame d ty q p s).txbuf = encodeFrame s.addr d ty q p := rfl
@[simp] theorem loadFrame_rxbuf (d : Half) (ty q : Byte) (p : Payload) (s : State) : (loadFrame d ty q p s).rxbuf = s.rxbuf := rfl
@[simp] theorem loadFrame_chkAcc (d : Half) (ty q : Byte) (p : Payload) (s : State) : (loadFrame d ty q p s).chkAcc = chkSum (frameBody s.addr d ty q p.bytes) := rfl
@[simp] theorem loadFrame_events (d : Half) (ty q : Byte) (p : Payload) (s : State) : (loadFrame d ty q p s).events = s.events := rfl
@[simp] theorem loadFrame_fwd (d : Half) (ty q : Byte) (p : Payload) (s : State) : (loadFrame d ty q p s).fwd = s.fwd := rfl
@[simp] theorem loadFrame_time (d : Half) (ty q : Byte) (p : Payload) (s : State) : (loadFrame d ty q p s).time = s.time := rfl
@[simp] theorem loadFrame_cfg (d : Half) (ty q : Byte) (p : Payload) (s : State) : (loadFrame d ty q p s).cfg = s.cfg := rfl
@[simp] theorem loadFrame_rst (d : Half) (ty q : Byte) (p : Payload) (s : State) : (loadFrame d ty q p s).rst = s.rst := rfl
@[simp] theorem loadFrame_cmdQ (d : Half) (ty q : Byte) (p : Payload) (s : State) : (loadFrame d ty q p s).cmdQ = s.cmdQ := rfl
@[simp] theorem loadFrame_lineQ (d : Half) (ty q : Byte) (p : Payload) (s : State) : (loadFrame d ty q p s).lineQ = s.lineQ := rfl
@[simp] theorem loadFrame_burstQ (d : Half) (ty q : Byte) (p : Payload) (s : State) : (loadFrame d ty q p s).burstQ = s.burstQ := rfl
@[simp] theorem loadFrame_drawQ (d : Half) (ty q : Byte) (p : Payload) (s : State) : (loadFrame d ty q p s).drawQ = s.drawQ := rfl
@[simp] theorem loadFrame_nowQ (d : Half) (ty q : Byte) (p : Payload) (s : State) : (loadFrame d ty q p s).nowQ = s.nowQ := rfl
@[simp] theorem loadFrame_trace (d : Half) (ty q : Byte) (p : Payload) (s : State) : (loadFrame d ty q p s).trace = s.trace := rfl
@[simp] theorem loadFrame_rsps (d : Half) (ty q : Byte) (p : Payload) (s : State) : (loadFrame d ty q p s).rsps = s.rsps := rfl

/-! ### hardReset -/

@[simp] theorem hardReset_addr (s : State) : (hardReset s).addr = s.cfg.nodeAddr := rfl
@[simp] theorem hardReset_lastSeq (s : State) : (hardReset s).lastSeq = 0x00#8 := rfl
@[simp] theorem hardReset_mode (s : State) : (hardReset s).mode = .sleep := rfl
@[simp] theorem hardReset_pend (s : State) : (hardReset s).pend = none := rfl
@[simp] theorem hardReset_pendNextRetry (s : State) : (hardReset s).pendNextRetry = 0 := rfl
@[simp] theorem hardReset_bq (s : State) : (hardReset s).bq = [] := rfl
@[simp] theorem hardReset_sendIntent (s : State) : (hardReset s).sendIntent = false := rfl
@[simp] theorem hardReset_ctl (s : State) : (hardReset s).ctl = .idle := rfl
@[simp] theorem hardReset_txbuf (s : State) : (hardReset s).txbuf = [] := rfl
@[simp] theorem hardReset_rxbuf (s : State) : (hardReset s).rxbuf = [] := rfl
@[simp] theorem hardReset_chkAcc (s : State) : (hardReset s).chkAcc = 0#16 := rfl
@[simp] theorem hardReset_events (s : State) : (hardReset s).events = [] := rfl
@[simp] theorem hardReset_fwd (s : State) : (hardReset s).fwd = none := rfl
@[simp] theorem hardReset_time (s : State) : (hardReset s).time = s.time := rfl
@[simp] theorem hardReset_cfg (s : State) : (hardReset s).cfg = s.cfg := rfl
@[simp] theorem hardReset_rst (s : State) : (hardReset s).rst = none := rfl
@[simp] theorem hardReset_cmdQ (s : State) : (hardReset s).cmdQ = s.cmdQ := rfl
@[simp] theorem hardReset_lineQ (s : State) : (hardReset s).lineQ = s.lineQ := rfl
@[simp] theorem hardReset_burstQ (s : State) : (hardReset s).burstQ = s.burstQ := rfl
@[simp] theorem hardReset_drawQ (s : State) : (hardReset s).drawQ = s.drawQ := rfl
@[simp] theorem hardReset_nowQ (s : State) : (hardReset s).nowQ = s.nowQ := rfl
@[simp] theorem hardReset_trace (s : State) : (hardReset s).trace = (if s.sendIntent then s.trace ++ [.setSendIntent false] else s.trace) := rfl
@[simp] theorem hardReset_rsps (s : State) : (hardReset s).rsps = s.rsps := rfl

end Sys2Proof.Machine
end

