-- ==== Sys2Proof/Laws/Ops.lean ====
section
/-! SUPPORT. For each shared operation, once, everything it can do. -/

namespace Sys2Proof.Machine

/-! ### The environment's answers -/

theorem takeLine_none {s : State} : takeLine s = none ↔ s.lineQ = [] := by
  unfold takeLine; cases s.lineQ <;> simp

theorem takeLine_some {s t : State} {b : Bool} (h : takeLine s = some (b, t)) :
    ∃ rest, s.lineQ = b :: rest ∧ t = { s with lineQ := rest }.call (.lineActive b) := by
  unfold takeLine at h
  split at h
  · simp at h
  · next b' rest e => simp only [Option.some.injEq, Prod.mk.injEq] at h; exact ⟨rest, by rw [e, h.1], by rw [← h.2, h.1]⟩

theorem takeBurst_none {s : State} : takeBurst s = none ↔ s.burstQ = [] := by
  unfold takeBurst
  split <;> simp_all

theorem takeBurst_some {s t : State} {ended : Bool} (h : takeBurst s = some (ended, t)) :
    (ended = false ∧ ∃ rest, s.burstQ = .timedOut :: rest ∧
      t = { s with burstQ := rest }.call (.waitActivityEnd s.cfg.activityTimeout false)) ∨
    (ended = true ∧ ∃ bs rest, s.burstQ = .bytes bs :: rest ∧
      t = { s with burstQ := rest, rxbuf := s.rxbuf ++ bs }.call (.waitActivityEnd s.cfg.activityTimeout true)) := by
  unfold takeBurst at h
  split at h
  · simp at h
  · next rest e => simp only [Option.some.injEq, Prod.mk.injEq] at h; exact .inl ⟨h.1.symm, rest, e, h.2.symm⟩
  · next bs rest e => simp only [Option.some.injEq, Prod.mk.injEq] at h; exact .inr ⟨h.1.symm, bs, rest, e, h.2.symm⟩

theorem takeByte_cases (s : State) :
    (s.rxbuf = [] ∧ takeByte s = (none, s.call (.rxByte s.cfg.readTimeout none))) ∨
    (∃ b rest, s.rxbuf = b :: rest ∧
      takeByte s = (some b, { s with rxbuf := rest }.call (.rxByte s.cfg.readTimeout (some b)))) := by
  unfold takeByte
  cases h : s.rxbuf with
  | nil => exact .inl ⟨rfl, rfl⟩
  | cons b rest => exact .inr ⟨b, rest, rfl, rfl⟩

theorem takeDraw_none {s : State} : takeDraw s = none ↔ s.drawQ = [] := by
  unfold takeDraw; cases s.drawQ <;> simp

theorem takeDraw_some {s t : State} {d : Nat} (h : takeDraw s = some (d, t)) :
    ∃ x rest, s.drawQ = x :: rest ∧ d = clampDraw s.cfg x ∧ t = { s with drawQ := rest }.call (.drawBackoff d) := by
  unfold takeDraw at h
  split at h
  · simp at h
  · next x rest e =>
    simp only [Option.some.injEq, Prod.mk.injEq] at h
    exact ⟨x, rest, e, h.1.symm, by rw [← h.2, h.1]⟩

theorem takeNow_none {s : State} : takeNow s = none ↔ s.nowQ = [] := by
  unfold takeNow; cases s.nowQ <;> simp

theorem takeNow_some {s s' : State} {t : Nat} (h : takeNow s = some (t, s')) :
    ∃ x rest, s.nowQ = x :: rest ∧ t = max s.time x ∧ s' = { s with nowQ := rest, time := t }.call (.now t) := by
  unfold takeNow at h
  split at h
  · simp at h
  · next x rest e =>
    simp only [Option.some.injEq, Prod.mk.injEq] at h
    exact ⟨x, rest, e, h.1.symm, by rw [← h.2, h.1]⟩

/-- A legal draw is taken as it is (00_scope.md R6). -/
theorem clampDraw_legal {cfg : Params} {x : Nat} (h1 : cfg.backoffMin ≤ x) (h2 : x ≤ cfg.backoffMax) :
    clampDraw cfg x = x := by
  unfold clampDraw; omega

/-- Every draw lies in the configured interval (42_backoff_arbiter.md R125). -/
theorem clampDraw_bounds (cfg : Params) (x : Nat) :
    cfg.backoffMin ≤ clampDraw cfg x ∧ clampDraw cfg x ≤ cfg.backoffMax := by
  have := cfg.backoff_le
  unfold clampDraw; omega

/-! ### Codes (30_encoding.md R73, 60_exceptions.md R190) -/

theorem Status.code_injective {a b : Status} (h : a.code = b.code) : a = b := by
  cases a <;> cases b <;> first | rfl | (exact absurd h (by decide))

/-- The codes 5 to 7 are never produced. -/
theorem Status.code_le (a : Status) : a.code.toNat ≤ 4 := by cases a <;> decide

theorem Event.code_bounds (e : Event) : 1 ≤ e.code ∧ e.code ≤ 13 := by cases e <;> simp [Event.code]

@[simp] theorem Response.statusCode_mk (st : Status) (es : List Event) (f : Option Forwarded) :
    (Response.mk st es f).statusCode = st.code := rfl

@[simp] theorem Response.eventCodes_mk (st : Status) (es : List Event) (f : Option Forwarded) :
    (Response.mk st es f).eventCodes = es.map Event.code := rfl

/-! ### The frame in TXBUF -/

@[simp] theorem frameBody_length (a d : Half) (ty q : Byte) (p : List Byte) :
    (frameBody a d ty q p).length = p.length + 7 := by
  simp [frameBody]

@[simp] theorem frameBytes_length (a d : Half) (ty q : Byte) (p : List Byte) :
    (frameBytes a d ty q p).length = p.length + 9 := by
  simp [frameBytes, sealBody]

@[simp] theorem encodeFrame_length (a d : Half) (ty q : Byte) (p : Payload) :
    (encodeFrame a d ty q p).length = p.bytes.length + 9 := by
  simp [encodeFrame]

/-- A frame has at most MAX_FRAME bytes (30_encoding.md R61). -/
theorem encodeFrame_length_le (a d : Half) (ty q : Byte) (p : Payload) :
    (encodeFrame a d ty q p).length ≤ Config.maxFrame := by
  have := p.bound
  simp only [Config.maxPayload] at this
  simp only [encodeFrame_length, Config.maxFrame]
  omega

/-! ### The delivery manager -/

theorem retryCheck_cases (s : State) :
    (s.pend = none ∧ retryCheck s = respond .ok s) ∨
    (∃ q, s.pend = some q ∧ retryCheck s = goto (.timeSample .retryTest) s) := by
  unfold retryCheck
  cases h : s.pend with
  | none => exact .inl ⟨rfl, rfl⟩
  | some q => exact .inr ⟨q, rfl, rfl⟩

theorem requestDone_eq (op : SendCmd) (s : State) :
    requestDone op s = respond .ok { s with mode := if op = .disarmed then .disarmed else s.mode } := by
  cases op <;> rfl

theorem queueSend_cases (op : SendCmd) (r : Request) (s : State) :
    (s.pend = none ∧ queueSend op r s = startPending (.request op) r s) ∨
    (s.pend ≠ none ∧ s.bq.length < s.cfg.backlogDepth ∧
      queueSend op r s = requestDone op { s with bq := s.bq ++ [r] }) ∨
    (s.pend ≠ none ∧ s.cfg.backlogDepth ≤ s.bq.length ∧ queueSend op r s = respond .busy (emit .txqFull s)) := by
  unfold queueSend State.backlogRoom
  cases h : s.pend with
  | none => exact .inl ⟨rfl, rfl⟩
  | some q =>
    by_cases hb : s.bq.length < s.cfg.backlogDepth
    · exact .inr (.inl ⟨by simp, hb, by simp [hb]⟩)
    · exact .inr (.inr ⟨by simp, by omega, by simp [hb]⟩)

theorem retryTest_cases (t : Nat) (s : State) :
    (s.pend = none ∧ retryTest t s = respond .ok s) ∨
    (∃ q, s.pend = some q ∧ s.pendNextRetry ≤ t ∧
      retryTest t s = sendGated .retry q (emit (.deliveryTimeout q.seq) s)) ∨
    (s.pend ≠ none ∧ t < s.pendNextRetry ∧ retryTest t s = respond .ok s) := by
  unfold retryTest State.retryDue
  cases h : s.pend with
  | none => exact .inl ⟨rfl, rfl⟩
  | some q =>
    by_cases hd : s.pendNextRetry ≤ t
    · exact .inr (.inl ⟨q, rfl, hd, by simp [hd]⟩)
    · exact .inr (.inr ⟨by simp, by omega, by simp [hd]⟩)

theorem armed_cases (k : Sender) (t : Nat) (s : State) :
    (∃ op, k = .request op ∧ armed k t s = requestDone op (armRetry t s)) ∨
    (k = .promoted ∧ armed k t s = retryCheck (armRetry t s)) ∨
    (k = .retry ∧ armed k t s = respond .ok (armRetry t s)) := by
  cases k with
  | request op => exact .inl ⟨op, rfl, rfl⟩
  | promoted => exact .inr (.inl ⟨rfl, rfl⟩)
  | retry => exact .inr (.inr ⟨rfl, rfl⟩)

theorem ackHandle_cases (q : Byte) (s : State) :
    ((∀ p, s.pend = some p → p.seq ≠ q) ∧ ackHandle q s = retryCheck (emit (.ackIgnored q) s)) ∨
    (∃ p, s.pend = some p ∧ p.seq = q ∧ s.bq = [] ∧
      ackHandle q s = retryCheck (emit (.acked q) { s with pend := none })) ∨
    (∃ p r rest, s.pend = some p ∧ p.seq = q ∧ s.bq = r :: rest ∧
      ackHandle q s = startPending .promoted r (emit (.acked q) { s with pend := none, bq := rest })) := by
  unfold ackHandle acknowledge Pending.acknowledgedBy
  cases h : s.pend with
  | none => exact .inl ⟨by simp, rfl⟩
  | some p =>
    by_cases hq : p.seq = q
    · cases hb : s.bq with
      | nil => exact .inr (.inl ⟨p, rfl, hq, rfl, by simp [hq]⟩)
      | cons r rest => exact .inr (.inr ⟨p, r, rest, rfl, hq, rfl, by simp [hq]⟩)
    · exact .inl ⟨by rintro p' ⟨⟩; exact hq, by simp [hq]⟩

/-! ### POLL's end -/

theorem pollDone_cases (p : Poller) (r : Option Packet) (s : State) :
    (p = .tick ∧ ∃ pkt, r = some pkt ∧ pollDone p r s = goto (.dispatch pkt) s) ∨
    (p = .tick ∧ r = none ∧ pollDone p r s = retryCheck s) ∨
    (∃ k, p = .drain k ∧ pollDone p r s = goto (.arbDraw k) (emit (.drained r.isSome) s)) := by
  cases p with
  | tick =>
    cases r with
    | none => exact .inr (.inl ⟨rfl, rfl, rfl⟩)
    | some pkt => exact .inl ⟨rfl, pkt, rfl, rfl⟩
  | drain k => exact .inr (.inr ⟨k, rfl, rfl⟩)

/-! ### The guards of the two fetch points -/

theorem atIdle_of_idle {s : State} (h : s.ctl = .idle) (run : State → State) :
    atIdle s run = .next (run (accept s)) := by
  simp [atIdle, h]

theorem atIdle_next {s t : State} {run : State → State} (h : atIdle s run = .next t) :
    s.ctl = .idle ∧ t = run (accept s) := by
  unfold atIdle at h
  split at h
  · next e => exact ⟨e, by injection h with h; exact h.symm⟩
  · cases h

theorem atDispatch_of_dispatch {s : State} {pkt : Packet} (h : s.ctl = .dispatch pkt) (run : State → State) :
    atDispatch s run = .next (run s) := by
  simp [atDispatch, h]

theorem atDispatch_next {s t : State} {run : State → State} (h : atDispatch s run = .next t) :
    (∃ pkt, s.ctl = .dispatch pkt) ∧ t = run s := by
  unfold atDispatch at h
  split at h
  · next pkt e => exact ⟨⟨pkt, e⟩, by injection h with h; exact h.symm⟩
  · cases h

end Sys2Proof.Machine
end

