-- ==== Sys2Proof/Laws/Codec.lean ====
section
/-! SUPPORT. The laws of the checksum unit and of the byte order. -/

namespace Sys2Proof

@[simp] theorem chkSum_nil : chkSum [] = 0#16 := rfl

theorem chkSum_foldl (acc : Half) (l : List Byte) :
    l.foldl (fun a b => a + b.zeroExtend 16) acc = acc + chkSum l := by
  induction l generalizing acc with
  | nil => simp
  | cons x l ih =>
    simp only [chkSum, List.foldl_cons] at ih ⊢
    rw [ih, ih (0#16 + _), BitVec.zero_add, BitVec.add_assoc]

theorem chkSum_cons (x : Byte) (l : List Byte) : chkSum (x :: l) = x.zeroExtend 16 + chkSum l := by
  rw [chkSum, List.foldl_cons, chkSum_foldl, BitVec.zero_add]

theorem chkSum_append (a b : List Byte) : chkSum (a ++ b) = chkSum a + chkSum b := by
  induction a with
  | nil => simp
  | cons x l ih => rw [List.cons_append, chkSum_cons, chkSum_cons, ih, BitVec.add_assoc]

/-- Replacing one byte changes the sum by the difference of the two bytes. -/
theorem chkSum_set (l : List Byte) (i : Nat) (h : i < l.length) (b : Byte) :
    chkSum (l.set i b) + l[i].zeroExtend 16 = chkSum l + b.zeroExtend 16 := by
  induction l generalizing i with
  | nil => simp at h
  | cons x l ih =>
    cases i with
    | zero =>
      simp only [List.set_cons_zero, chkSum_cons, List.getElem_cons_zero]
      ac_rfl
    | succ i =>
      simp only [List.set_cons_succ, chkSum_cons, List.getElem_cons_succ]
      rw [BitVec.add_assoc, ih i (by simpa using h), BitVec.add_assoc]

theorem le16_toNat (a b : Byte) : (le16 a b).toNat = b.toNat * 256 + a.toNat := by
  have := Nat.shiftLeft_add_eq_or_of_lt (i := 8) a.isLt b.toNat
  rw [le16, BitVec.toNat_append, ← this, Nat.shiftLeft_eq]

theorem lo_toNat (v : Half) : (lo v).toNat = v.toNat % 256 := by
  simp [lo, BitVec.extractLsb'_toNat]

theorem hi_toNat (v : Half) : (hi v).toNat = v.toNat / 256 := by
  have := v.isLt
  simp only [hi, BitVec.extractLsb'_toNat, Nat.shiftRight_eq_div_pow]
  omega

@[simp] theorem le16_lo_hi (v : Half) : le16 (lo v) (hi v) = v := by
  apply BitVec.eq_of_toNat_eq
  rw [le16_toNat, lo_toNat, hi_toNat]
  omega

/-- The two bytes of a little-endian number are determined by it. -/
theorem le16_inj {a b c d : Byte} (h : le16 a b = le16 c d) : a = c ∧ b = d := by
  have hn := congrArg BitVec.toNat h
  rw [le16_toNat, le16_toNat] at hn
  have := a.isLt
  have := c.isLt
  exact ⟨BitVec.eq_of_toNat_eq (by omega), BitVec.eq_of_toNat_eq (by omega)⟩

/-- A sequence that DECODE accepts holds all its bytes. -/
theorem decodeFrame_ok_length {bs : List Byte} {pkt : Packet} (h : decodeFrame bs = .ok pkt) :
    (byteAt bs 0).toNat + 3 ≤ bs.length := by
  cases bs with
  | nil => cases h
  | cons len rest =>
    rcases Nat.lt_or_ge (len :: rest).length (len.toNat + 3) with hl | hl
    · simp only [decodeFrame, hl, if_true] at h
      cases h
    · exact hl

/-- A packet that DECODE accepts has a length of at least 6, and as many payload bytes as that says (40_frame_codec.md
R96). -/
theorem decodeFrame_ok_packet {bs : List Byte} {pkt : Packet} (h : decodeFrame bs = .ok pkt) :
    6 ≤ pkt.length.toNat ∧ pkt.payload.length + 6 = pkt.length.toNat := by
  have hl := decodeFrame_ok_length h
  cases bs with
  | nil => cases h
  | cons len rest =>
    have hlen : len.toNat + 3 ≤ (len :: rest).length := hl
    simp only [decodeFrame] at h
    rw [if_neg (by omega)] at h
    split at h
    · cases h
    split at h
    · cases h
    · next h6 =>
      cases h
      simp only [packetOf, List.length_take, List.length_drop]
      omega

end Sys2Proof
end

