-- ==== Sys2Proof/Laws/PerInstr.lean ====
section
/-! SUPPORT. One lemma per constructor of Instr: how many bytes its encoding has (30_encoding.md R61, R70). -/

namespace Sys2Proof.Laws.EncodedSize

/-- The payload a message carries; none for a command. -/
def payloadOf : Instr → Option (List Byte)
  | .tick => none
  | .unableToArm => none
  | .disarmed => none
  | .strike => none
  | .setMode _ => none
  | .msgRequestId m => some m.payload
  | .msgResponseId m => some m.payload
  | .msgAck m => some m.payload
  | .msgStop m => some m.payload
  | .msgConfigure m => some m.payload
  | .msgStart m => some m.payload
  | .msgStrike m => some m.payload
  | .msgError m => some m.payload
  | .msgDefused m => some m.payload
  | .msgNeedy m => some m.payload
  | .msgReadStatus m => some m.payload
  | .msgStatus m => some m.payload
  | .msgSound m => some m.payload

/-- A command is one byte; a well-formed message is a frame of 9 to MAX_FRAME bytes, 9 more than its payload. -/
def Statement (i : Instr) : Prop :=
  match payloadOf i with
  | none => (encode i).length = 1
  | some p => (encode i).length = p.length + 9 ∧ (i.wf = true → (encode i).length ≤ Config.maxFrame)

theorem of_message (k : MsgKind) (m : Msg) :
    (encodeMsg k m).length = m.payload.length + 9 ∧
      (m.wf = true → (encodeMsg k m).length ≤ Config.maxFrame) := by
  have h : (encodeMsg k m).length = m.payload.length + 9 := Machine.frameBytes_length _ _ _ _ _
  refine ⟨h, fun hw => ?_⟩
  have := of_decide_eq_true hw
  simp only [Config.maxPayload] at this
  rw [h, Config.maxFrame]
  omega

theorem tick : Statement .tick := rfl
theorem unableToArm : Statement .unableToArm := rfl
theorem disarmed : Statement .disarmed := rfl
theorem strike : Statement .strike := rfl
theorem setMode (m : Mode) : Statement (.setMode m) := rfl
theorem msgRequestId (m : Msg) : Statement (.msgRequestId m) := of_message .requestId m
theorem msgResponseId (m : Msg) : Statement (.msgResponseId m) := of_message .responseId m
theorem msgAck (m : Msg) : Statement (.msgAck m) := of_message .ack m
theorem msgStop (m : Msg) : Statement (.msgStop m) := of_message .stop m
theorem msgConfigure (m : Msg) : Statement (.msgConfigure m) := of_message .configure m
theorem msgStart (m : Msg) : Statement (.msgStart m) := of_message .start m
theorem msgStrike (m : Msg) : Statement (.msgStrike m) := of_message .strike m
theorem msgError (m : Msg) : Statement (.msgError m) := of_message .error m
theorem msgDefused (m : Msg) : Statement (.msgDefused m) := of_message .defused m
theorem msgNeedy (m : Msg) : Statement (.msgNeedy m) := of_message .needy m
theorem msgReadStatus (m : Msg) : Statement (.msgReadStatus m) := of_message .readStatus m
theorem msgStatus (m : Msg) : Statement (.msgStatus m) := of_message .status m
theorem msgSound (m : Msg) : Statement (.msgSound m) := of_message .sound m

end Sys2Proof.Laws.EncodedSize
end

