-- ==== Sys2Proof/Laws/Sequencer.lean ====
section
/-! SUPPORT. What passing one wait point can do, said once (`Pass`), and the laws of `settle`: it may be taken one wait
point at a time (`settle_advance`) and it keeps whatever every wait point keeps (`settle_induction`). -/

namespace Sys2Proof.Machine

/-- The wait points and what passing each does. -/
inductive Pass (s : State) : State → Prop where
  | rxIdle (p : Poller) (rest : List Bool) (hc : s.ctl = .rxSample p) (hq : s.lineQ = false :: rest) :
      Pass s (pollDone p none ({ s with lineQ := rest }.call (.lineActive false)))
  | rxActive (p : Poller) (rest : List Bool) (hc : s.ctl = .rxSample p) (hq : s.lineQ = true :: rest) :
      Pass s (goto (.rxWaitEnd p)
        ({ s with lineQ := rest }.call (.lineActive true)))
  | rxStuck (p : Poller) (rest : List Burst) (hc : s.ctl = .rxWaitEnd p) (hq : s.burstQ = .timedOut :: rest) :
      Pass s (pollRaise p (.timeout .activity)
        ({ s with burstQ := rest }.call (.waitActivityEnd s.cfg.activityTimeout false)))
  | rxEnded (p : Poller) (bs : List Byte) (rest : List Burst) (hc : s.ctl = .rxWaitEnd p)
      (hq : s.burstQ = .bytes bs :: rest) :
      Pass s (goto (.rxLen p)
        ({ s with burstQ := rest, rxbuf := s.rxbuf ++ bs }.call (.waitActivityEnd s.cfg.activityTimeout true)))
  | rxNoLength (p : Poller) (hc : s.ctl = .rxLen p) (hq : s.rxbuf = []) :
      Pass s (pollRaise p (.timeout .length) (s.call (.rxByte s.cfg.readTimeout none)))
  | rxLength (p : Poller) (b : Byte) (rest : List Byte) (hc : s.ctl = .rxLen p) (hq : s.rxbuf = b :: rest) :
      Pass s (goto (.rxBody p b [b])
        ({ s with rxbuf := rest }.call (.rxByte s.cfg.readTimeout (some b))))
  | rxShort (p : Poller) (len : Byte) (buf : List Byte) (hc : s.ctl = .rxBody p len buf) (hq : s.rxbuf = []) :
      Pass s (pollRaise p (.shortRead len buf.length) (s.call (.rxByte s.cfg.readTimeout none)))
  | rxMore (p : Poller) (len b : Byte) (buf rest : List Byte) (hc : s.ctl = .rxBody p len buf)
      (hq : s.rxbuf = b :: rest) (hl : buf.length + 1 < len.toNat + 3) :
      Pass s (goto (.rxBody p len (buf ++ [b]))
        ({ s with rxbuf := rest }.call (.rxByte s.cfg.readTimeout (some b))))
  | rxLast (p : Poller) (len b : Byte) (buf rest : List Byte) (hc : s.ctl = .rxBody p len buf)
      (hq : s.rxbuf = b :: rest) (hl : len.toNat + 3 ≤ buf.length + 1) :
      Pass s (pollDecode p (buf ++ [b]) ({ s with rxbuf := rest }.call (.rxByte s.cfg.readTimeout (some b))))
  | arbIdle (k : Sender) (rest : List Bool) (hc : s.ctl = .arbSample k) (hq : s.lineQ = false :: rest) :
      Pass s (beginTransmit k ({ s with lineQ := rest }.call (.lineActive false)))
  | arbBusy (k : Sender) (rest : List Bool) (hc : s.ctl = .arbSample k) (hq : s.lineQ = true :: rest) :
      Pass s (goto (.rxSample (.drain k)) (emit .busBusy ({ s with lineQ := rest }.call (.lineActive true))))
  | arbDraw (k : Sender) (x : Nat) (rest : List Nat) (hc : s.ctl = .arbDraw k) (hq : s.drawQ = x :: rest) :
      Pass s (goto (.arbSleep k (clampDraw s.cfg x))
        ({ s with drawQ := rest }.call (.drawBackoff (clampDraw s.cfg x))))
  | arbSlept (k : Sender) (d : Nat) (hc : s.ctl = .arbSleep k d) : Pass s (atArbSleep k d s)
  | settled (k : Sender) (hc : s.ctl = .txSettle k) : Pass s (atTxSettle k s)
  | txMore (k : Sender) (i : Nat) (b : Byte) (hc : s.ctl = .txByte k i) (hb : s.txbuf[i]? = some b)
      (hl : i + 1 < s.txbuf.length) : Pass s (goto (.txByte k (i + 1)) (s.call (.txByte b)))
  | txLast (k : Sender) (i : Nat) (b : Byte) (hc : s.ctl = .txByte k i) (hb : s.txbuf[i]? = some b)
      (hl : s.txbuf.length ≤ i + 1) : Pass s (endTransmit k (s.call (.txByte b)))
  | txNone (k : Sender) (i : Nat) (hc : s.ctl = .txByte k i) (hb : s.txbuf[i]? = none) : Pass s (endTransmit k s)
  | retryTest (x : Nat) (rest : List Nat) (hc : s.ctl = .timeSample .retryTest) (hq : s.nowQ = x :: rest) :
      Pass s (retryTest (max s.time x) ({ s with nowQ := rest, time := max s.time x }.call (.now (max s.time x))))
  | arm (k : Sender) (x : Nat) (rest : List Nat) (hc : s.ctl = .timeSample (.arm k)) (hq : s.nowQ = x :: rest) :
      Pass s (armed k (max s.time x) ({ s with nowQ := rest, time := max s.time x }.call (.now (max s.time x))))

/-- Passing the wait point CTL names does one of these and nothing else. -/
theorem passCtl_pass {s t : State} (h : passCtl s = some t) : Pass s t := by
  unfold passCtl at h
  split at h
  case h_1 => cases h
  case h_2 p hc =>
    unfold atRxSample at h
    split at h
    · cases h
    · next hl => obtain ⟨rest, hq, rfl⟩ := takeLine_some hl; cases h; exact .rxIdle p rest hc hq
    · next hl => obtain ⟨rest, hq, rfl⟩ := takeLine_some hl; cases h; exact .rxActive p rest hc hq
  case h_3 p hc =>
    unfold atRxWaitEnd at h
    split at h
    · cases h
    · next hl =>
      obtain ⟨-, rest, hq, rfl⟩ | ⟨he, -⟩ := takeBurst_some hl
      · cases h; exact .rxStuck p rest hc hq
      · cases he
    · next hl =>
      obtain ⟨he, -⟩ | ⟨-, bs, rest, hq, rfl⟩ := takeBurst_some hl
      · cases he
      · cases h; exact .rxEnded p bs rest hc hq
  case h_4 p hc =>
    cases h
    unfold atRxLen
    obtain ⟨hq, ht⟩ | ⟨b, rest, hq, ht⟩ := takeByte_cases s
    · rw [ht]; exact .rxNoLength p hc hq
    · rw [ht]; exact .rxLength p b rest hc hq
  case h_5 p len buf hc =>
    cases h
    unfold atRxBody
    obtain ⟨hq, ht⟩ | ⟨b, rest, hq, ht⟩ := takeByte_cases s
    · rw [ht]; exact .rxShort p len buf hc hq
    · rw [ht]
      by_cases hl : buf.length + 1 < len.toNat + 3
      · simp only [hl, if_true]; exact .rxMore p len b buf rest hc hq hl
      · simp only [hl, if_false]; exact .rxLast p len b buf rest hc hq (by omega)
  case h_6 => cases h
  case h_7 k hc =>
    unfold atArbSample at h
    split at h
    · cases h
    · next hl => obtain ⟨rest, hq, rfl⟩ := takeLine_some hl; cases h; exact .arbIdle k rest hc hq
    · next hl => obtain ⟨rest, hq, rfl⟩ := takeLine_some hl; cases h; exact .arbBusy k rest hc hq
  case h_8 k hc =>
    unfold atArbDraw at h
    split at h
    · cases h
    · next hl => obtain ⟨x, rest, hq, rfl, rfl⟩ := takeDraw_some hl; cases h; exact .arbDraw k x rest hc hq
  case h_9 k d hc => cases h; exact .arbSlept k d hc
  case h_10 k hc => cases h; exact .settled k hc
  case h_11 k i hc =>
    cases h
    unfold atTxByte
    split
    · next hb => exact .txNone k i hc hb
    · next b hb =>
      by_cases hl : i + 1 < s.txbuf.length
      · simp only [hl, if_true]; exact .txMore k i b hc hb hl
      · simp only [hl, if_false]; exact .txLast k i b hc hb (by omega)
  case h_12 p hc =>
    unfold atTimeSample at h
    split at h
    · cases h
    · next hl =>
      obtain ⟨x, rest, hq, rfl, rfl⟩ := takeNow_some hl
      cases p with
      | retryTest => cases h; exact .retryTest x rest hc hq
      | arm k => cases h; exact .arm k x rest hc hq

/-- `advance` passes one wait point and counts the reset input down. -/
theorem advance_pass {s t : State} (h : advance s = some t) :
    s.rst ≠ some 0 ∧ ∃ u, Pass s u ∧ t = { u with rst := countDown s.rst } := by
  unfold advance at h
  split at h
  · cases h
  · next hr =>
    rw [Option.map_eq_some_iff] at h
    obtain ⟨u, hu, rfl⟩ := h
    exact ⟨fun e => hr e, u, passCtl_pass hu, rfl⟩

/-! ### What RETRY_CHECK and POLL's end leave alone -/

@[simp] theorem retryCheck_answers (s : State) : (retryCheck s).answers = s.answers := by
  obtain ⟨-, h⟩ | ⟨q, -, h⟩ := retryCheck_cases s
  · rw [h]; rfl
  · rw [h]; rfl

@[simp] theorem retryCheck_txbuf (s : State) : (retryCheck s).txbuf = s.txbuf := by
  obtain ⟨-, h⟩ | ⟨q, -, h⟩ := retryCheck_cases s
  · rw [h]; rfl
  · rw [h]; rfl

/-- RETRY_CHECK ends the command or goes to its time sample. -/
theorem retryCheck_ctl (s : State) : (retryCheck s).ctl = .idle ∨ (retryCheck s).ctl = .timeSample .retryTest := by
  obtain ⟨-, h⟩ | ⟨q, -, h⟩ := retryCheck_cases s <;> rw [h]
  · exact .inl rfl
  · exact .inr rfl

@[simp] theorem pollDone_answers (p : Poller) (r : Option Packet) (s : State) :
    (pollDone p r s).answers = s.answers := by
  obtain ⟨-, pkt, -, h⟩ | ⟨-, -, h⟩ | ⟨k, -, h⟩ := pollDone_cases p r s <;> rw [h]
  · rfl
  · simp
  · rfl

@[simp] theorem pollDone_txbuf (p : Poller) (r : Option Packet) (s : State) : (pollDone p r s).txbuf = s.txbuf := by
  obtain ⟨-, pkt, -, h⟩ | ⟨-, -, h⟩ | ⟨k, -, h⟩ := pollDone_cases p r s <;> rw [h]
  · rfl
  · exact retryCheck_txbuf s
  · rfl

@[simp] theorem pollRaise_answers (p : Poller) (e : Event) (s : State) : (pollRaise p e s).answers = s.answers := by
  simp only [pollRaise, pollDone_answers]; rfl

@[simp] theorem pollRaise_txbuf (p : Poller) (e : Event) (s : State) : (pollRaise p e s).txbuf = s.txbuf := by
  simp [pollRaise]

@[simp] theorem pollDecode_answers (p : Poller) (buf : List Byte) (s : State) :
    (pollDecode p buf s).answers = s.answers := by
  unfold pollDecode
  split
  · simp only [pollDone_answers]; rfl
  · simp only [pollRaise_answers]; rfl

@[simp] theorem pollDecode_txbuf (p : Poller) (buf : List Byte) (s : State) :
    (pollDecode p buf s).txbuf = s.txbuf := by
  unfold pollDecode
  split <;> simp

/-! ### settle ends: between two answers only boundedly many wait points are passed -/

/-- By how much a TXBUF exceeds MAX_FRAME; no frame that ENCODE builds does. -/
def overCap (n : Nat) : Nat := n - Config.maxFrame

theorem overCap_le (n : Nat) : overCap n ≤ n := Nat.sub_le _ _

theorem le_overCap (n : Nat) : n ≤ overCap n + 258 := by
  have : n ≤ n - Config.maxFrame + Config.maxFrame := by omega
  exact this

theorem overCap_encodeFrame (a d : Half) (ty q : Byte) (p : Payload) :
    overCap (encodeFrame a d ty q p).length = 0 :=
  Nat.sub_eq_zero_of_le (encodeFrame_length_le a d ty q p)

/-- How many wait points can still be passed before the next answer is needed, at most. -/
def Ctl.cost (c : Ctl) (txlen : Nat) : Nat :=
  match c with
  | .idle => 0
  | .dispatch _ => 0
  | .timeSample _ => 0
  | .rxSample .tick => 0
  | .rxWaitEnd .tick => 0
  | .rxLen .tick => 260
  | .rxBody .tick len buf => len.toNat + 3 - buf.length + 1
  | .rxSample (.drain _) => overCap txlen
  | .rxWaitEnd (.drain _) => overCap txlen
  | .rxLen (.drain _) => 260 + (overCap txlen)
  | .rxBody (.drain _) len buf => len.toNat + 3 - buf.length + 1 + (overCap txlen)
  | .arbSample _ => overCap txlen
  | .arbDraw _ => overCap txlen
  | .arbSleep _ _ => 1 + (overCap txlen)
  | .txSettle _ => txlen + 2
  | .txByte _ i => txlen - i + 1

/-- Falls with every wait point passed. -/
def State.potential (s : State) : Nat := 262 * s.answers + s.ctl.cost s.txbuf.length

theorem cost_retryCheck (s : State) (n : Nat) : (retryCheck s).ctl.cost n = 0 := by
  obtain h | h := retryCheck_ctl s <;> rw [h] <;> rfl

/-- POLL's end costs what its caller's next point costs. -/
theorem cost_pollDone (p : Poller) (r : Option Packet) (s : State) (n : Nat) :
    (pollDone p r s).ctl.cost n = (Ctl.rxSample p).cost n := by
  obtain ⟨rfl, pkt, -, h⟩ | ⟨rfl, -, h⟩ | ⟨k, rfl, h⟩ := pollDone_cases p r s <;> rw [h]
  · rfl
  · rw [cost_retryCheck]; rfl
  · rfl

theorem cost_pollDecode (p : Poller) (buf : List Byte) (s : State) (n : Nat) :
    (pollDecode p buf s).ctl.cost n = (Ctl.rxSample p).cost n := by
  unfold pollDecode
  split
  · exact cost_pollDone ..
  · exact cost_pollDone ..

theorem answers_line {s : State} {b : Bool} {rest : List Bool} (h : s.lineQ = b :: rest) :
    s.answers = { s with lineQ := rest }.answers + 1 := by
  simp only [State.answers, h, List.length_cons]; omega

theorem answers_burst {s : State} {b : Burst} {rest : List Burst} (h : s.burstQ = b :: rest) :
    s.answers = { s with burstQ := rest }.answers + 1 := by
  simp only [State.answers, h, List.length_cons]; omega

theorem answers_draw {s : State} {x : Nat} {rest : List Nat} (h : s.drawQ = x :: rest) :
    s.answers = { s with drawQ := rest }.answers + 1 := by
  simp only [State.answers, h, List.length_cons]; omega

theorem answers_now {s : State} {x : Nat} {rest : List Nat} (h : s.nowQ = x :: rest) :
    s.answers = { s with nowQ := rest }.answers + 1 := by
  simp only [State.answers, h, List.length_cons]; omega

theorem armed_answers (k : Sender) (n : Nat) (s : State) : (armed k n s).answers = s.answers := by
  obtain ⟨op, -, h⟩ | ⟨-, h⟩ | ⟨-, h⟩ := armed_cases k n s <;> rw [h]
  · rw [requestDone_eq]; rfl
  · rw [retryCheck_answers]; rfl
  · rfl

theorem cost_armed (k : Sender) (n m : Nat) (s : State) : (armed k n s).ctl.cost m = 0 := by
  obtain ⟨op, -, h⟩ | ⟨-, h⟩ | ⟨-, h⟩ := armed_cases k n s <;> rw [h]
  · rw [requestDone_eq]; rfl
  · exact cost_retryCheck ..
  · rfl

/-- Every frame SEND_GATED is entered with fits the bound, so arbitration costs nothing. -/
theorem cost_sendGated (k : Sender) (q : Pending) (s : State) :
    (sendGated k q s).ctl.cost (sendGated k q s).txbuf.length = 0 :=
  overCap_encodeFrame s.addr q.dest q.type q.seq q.pay

theorem retryTest_answers (n : Nat) (s : State) : (retryTest n s).answers = s.answers := by
  obtain ⟨-, h⟩ | ⟨q, -, -, h⟩ | ⟨-, -, h⟩ := retryTest_cases n s <;> rw [h] <;> rfl

theorem cost_retryTest (n : Nat) (s : State) :
    (retryTest n s).ctl.cost (retryTest n s).txbuf.length = 0 := by
  obtain ⟨-, h⟩ | ⟨q, -, -, h⟩ | ⟨-, -, h⟩ := retryTest_cases n s <;> rw [h]
  · rfl
  · exact cost_sendGated ..
  · rfl

theorem pass_potential {s t : State} (h : Pass s t) : t.potential < s.potential := by
  unfold State.potential
  cases h with
  | rxIdle p rest hc hq =>
    rw [cost_pollDone, pollDone_answers, pollDone_txbuf, hc, answers_line hq]
    simp only [State.call_txbuf, State.answers, State.call_lineQ, State.call_burstQ, State.call_drawQ, State.call_nowQ]
    omega
  | rxActive p rest hc hq =>
    rw [hc, answers_line hq]
    cases p <;> simp only [State.answers, State.call, goto, Ctl.cost] <;> omega
  | rxStuck p rest hc hq =>
    rw [pollRaise, cost_pollDone, pollDone_answers, pollDone_txbuf, hc, answers_burst hq]
    cases p <;> simp only [State.answers, State.call, emit, flush, Ctl.cost] <;> omega
  | rxEnded p bs rest hc hq =>
    rw [hc, answers_burst hq]
    cases p <;> simp only [State.answers, State.call, goto, Ctl.cost] <;> omega
  | rxNoLength p hc hq =>
    rw [pollRaise, cost_pollDone, pollDone_answers, pollDone_txbuf, hc]
    cases p <;> simp only [State.answers, State.call, emit, flush, Ctl.cost] <;> omega
  | rxLength p b rest hc hq =>
    rw [hc]
    have := b.isLt
    cases p <;> simp only [State.answers, State.call, goto, Ctl.cost, List.length_singleton] <;> omega
  | rxShort p len buf hc hq =>
    rw [pollRaise, cost_pollDone, pollDone_answers, pollDone_txbuf, hc]
    cases p <;> simp only [State.answers, State.call, emit, flush, Ctl.cost] <;> omega
  | rxMore p len b buf rest hc hq hl =>
    rw [hc]
    cases p <;> simp only [State.answers, State.call, goto, Ctl.cost, List.length_append, List.length_singleton] <;> omega
  | rxLast p len b buf rest hc hq hl =>
    rw [cost_pollDecode, pollDecode_answers, pollDecode_txbuf, hc]
    cases p <;> simp only [State.answers, State.call, Ctl.cost] <;> omega
  | arbIdle k rest hc hq =>
    rw [hc, answers_line hq]
    have := le_overCap s.txbuf.length
    simp only [State.answers, State.call, goto, beginTransmit, setIntent, Ctl.cost]
    omega
  | arbBusy k rest hc hq =>
    rw [hc, answers_line hq]
    simp only [State.answers, State.call, goto, emit, Ctl.cost]
    omega
  | arbDraw k x rest hc hq =>
    rw [hc, answers_draw hq]
    simp only [State.answers, State.call, goto, Ctl.cost]
    omega
  | arbSlept k d hc =>
    rw [hc]
    simp only [State.answers, State.call, goto, atArbSleep, Ctl.cost]
    omega
  | settled k hc =>
    rw [hc]
    simp only [State.answers, State.call, goto, atTxSettle, Ctl.cost]
    omega
  | txMore k i b hc hb hl =>
    rw [hc]
    simp only [State.answers, State.call, goto, Ctl.cost]
    omega
  | txLast k i b hc hb hl =>
    rw [hc]
    simp only [State.answers, State.call, goto, endTransmit, setIntent, flush, Ctl.cost]
    omega
  | txNone k i hc hb =>
    rw [hc]
    simp only [State.answers, State.call, goto, endTransmit, setIntent, flush, Ctl.cost]
    omega
  | retryTest x rest hc hq =>
    rw [cost_retryTest, retryTest_answers, answers_now hq]
    simp only [State.answers, State.call]
    omega
  | arm k x rest hc hq =>
    rw [cost_armed, armed_answers, answers_now hq]
    simp only [State.answers, State.call]
    omega

theorem advance_potential {s t : State} (h : advance s = some t) : t.potential < s.potential := by
  obtain ⟨-, u, hu, rfl⟩ := advance_pass h
  exact (pass_potential hu : u.potential < s.potential)

/-- A state that holds rxBody's index bound or not: `reach` always bounds the potential. -/
theorem potential_lt_reach (s : State) : s.potential < s.reach := by
  have hc : ∀ (c : Ctl) (n : Nat), c.cost n < 262 + n + 4 := by
    intro c n
    have h1 := overCap_le n
    have h2 : ∀ len : Byte, len.toNat < 256 := fun len => len.isLt
    cases c with
    | idle => simp only [Ctl.cost]; omega
    | dispatch => simp only [Ctl.cost]; omega
    | timeSample => simp only [Ctl.cost]; omega
    | arbSample => simp only [Ctl.cost]; omega
    | arbDraw => simp only [Ctl.cost]; omega
    | arbSleep => simp only [Ctl.cost]; omega
    | txSettle => simp only [Ctl.cost]; omega
    | txByte => simp only [Ctl.cost]; omega
    | rxSample p => cases p <;> simp only [Ctl.cost] <;> omega
    | rxWaitEnd p => cases p <;> simp only [Ctl.cost] <;> omega
    | rxLen p => cases p <;> simp only [Ctl.cost] <;> omega
    | rxBody p len buf =>
      have := h2 len
      cases p <;> simp only [Ctl.cost] <;> omega
  have := hc s.ctl s.txbuf.length
  unfold State.potential State.reach
  omega

/-- Any bound at or above the potential gives the same end. -/
theorem settleN_eq {n m : Nat} {s : State} (hn : s.potential ≤ n) (hm : s.potential ≤ m) :
    settleN n s = settleN m s := by
  induction n generalizing m s with
  | zero =>
    cases m with
    | zero => rfl
    | succ m =>
      have : advance s = none := by
        cases h : advance s with
        | none => rfl
        | some t => have := advance_potential h; omega
      simp [settleN, this]
  | succ n ih =>
    cases h : advance s with
    | none => cases m <;> simp [settleN, h]
    | some t =>
      have hlt := advance_potential h
      cases m with
      | zero => omega
      | succ m =>
        simp only [settleN, h]
        exact ih (by omega) (by omega)

/-- `settle` may be taken one wait point at a time. -/
theorem settle_advance {s t : State} (h : advance s = some t) : settle s = settle t := by
  have hs := potential_lt_reach s
  have ht := potential_lt_reach t
  have hlt := advance_potential h
  have : settleN (s.potential + 1) s = settleN s.potential t := by simp [settleN, h]
  unfold settle
  rw [settleN_eq (m := s.potential + 1) (by omega) (by omega), this]
  exact settleN_eq (by omega) (by omega)

theorem settle_of_none {s : State} (h : advance s = none) : settle s = s := by
  unfold settle
  generalize s.reach = n
  cases n <;> simp [settleN, h]

/-- Where `settle` ends, no wait point can be passed. -/
theorem settle_stops (s : State) : advance (settle s) = none := by
  have key : ∀ n, ∀ s : State, s.potential ≤ n → advance (settleN n s) = none := by
    intro n
    induction n with
    | zero =>
      intro s hs
      cases h : advance s with
      | none => exact h
      | some t => have := advance_potential h; omega
    | succ n ih =>
      intro s hs
      cases h : advance s with
      | none => simp [settleN, h]
      | some t =>
        have := advance_potential h
        simpa [settleN, h] using ih t (by omega)
  exact key s.reach s (Nat.le_of_lt (potential_lt_reach s))

/-- What holds at the start and is kept by every wait point holds where `settle` ends. -/
theorem settle_induction {P : State → Prop} (keep : ∀ s t, P s → advance s = some t → P t) {s : State} (h : P s) :
    P (settle s) := by
  have key : ∀ n, ∀ s, P s → P (settleN n s) := by
    intro n
    induction n with
    | zero => exact fun s h => h
    | succ n ih =>
      intro s hs
      cases ha : advance s with
      | none => simpa [settleN, ha] using hs
      | some t => simpa [settleN, ha] using ih t (keep s t hs ha)
  exact key s.reach s h

/-- `advance` where the reset input is not asserted. -/
theorem advance_of_pass {s t : State} (hr : s.rst = none) (h : passCtl s = some t) (ht : t.rst = none) :
    advance s = some t := by
  have : countDown none = t.rst := ht.symm
  simp only [advance, hr, h, Option.map_some, this]

theorem settle_of_pass {s t : State} (hr : s.rst = none) (h : passCtl s = some t) (ht : t.rst = none) :
    settle s = settle t :=
  settle_advance (advance_of_pass hr h ht)

theorem settle_of_stuck {s : State} (h : passCtl s = none) : settle s = s := by
  apply settle_of_none
  unfold advance
  split
  · rfl
  · simp [h]

end Sys2Proof.Machine
end

