-- ==== Sys2Proof/Laws/Runs.lean ====
section
/-! SUPPORT. Whole runs of the two byte loops under `settle`: TRANSMIT from byte TX_IDX on, and POLL from byte RX_IDX on. -/

namespace Sys2Proof.Machine

theorem passCtl_txByte {s : State} {k : Sender} {i : Nat} {b : Byte} (hc : s.ctl = .txByte k i)
    (hb : s.txbuf[i]? = some b) :
    passCtl s = some (if i + 1 < s.txbuf.length then goto (.txByte k (i + 1)) (s.call (.txByte b))
      else endTransmit k (s.call (.txByte b))) := by
  simp only [passCtl, hc, atTxByte, hb]

/-- TRANSMIT from byte `i` on: the rest of TXBUF is written in order, SEND_INTENT falls and RXBUF is emptied
(41_bus_transport.md R115, R116). -/
theorem settle_txByte {s : State} {k : Sender} {i : Nat} (hc : s.ctl = .txByte k i) (hr : s.rst = none)
    (hi : i < s.txbuf.length) :
    settle s = settle { s with
      trace := s.trace ++ (s.txbuf.drop i).map .txByte ++ [.setSendIntent false]
      sendIntent := false
      rxbuf := []
      ctl := .timeSample (.arm k) } := by
  induction hn : s.txbuf.length - i generalizing s i with
  | zero => omega
  | succ n ih =>
    have hb : s.txbuf[i]? = some s.txbuf[i] := List.getElem?_eq_getElem hi
    have hd : s.txbuf.drop i = s.txbuf[i] :: s.txbuf.drop (i + 1) := List.drop_eq_getElem_cons hi
    have hp := passCtl_txByte hc hb
    by_cases hl : i + 1 < s.txbuf.length
    · rw [if_pos hl] at hp
      rw [settle_of_pass hr hp hr,
        ih (s := goto (.txByte k (i + 1)) (s.call (.txByte s.txbuf[i]))) (i := i + 1) rfl hr hl
          (by simp only [goto_txbuf, State.call_txbuf]; omega)]
      simp only [State.call, goto, hd, List.map_cons, List.append_assoc, List.cons_append, List.nil_append]
    · rw [if_neg hl] at hp
      rw [settle_of_pass hr hp hr]
      have : s.txbuf.drop (i + 1) = [] := List.drop_eq_nil_of_le (by omega)
      simp only [State.call, hd, this, endTransmit, setIntent, goto, flush, List.map_cons, List.map_nil]

theorem passCtl_rxBody_none {s : State} {p : Poller} {len : Byte} {buf : List Byte} (hc : s.ctl = .rxBody p len buf)
    (hq : s.rxbuf = []) :
    passCtl s = some (pollRaise p (.shortRead len buf.length) (s.call (.rxByte s.cfg.readTimeout none))) := by
  simp only [passCtl, hc, atRxBody, takeByte, hq]

theorem passCtl_rxBody_some {s : State} {p : Poller} {len b : Byte} {buf rest : List Byte}
    (hc : s.ctl = .rxBody p len buf) (hq : s.rxbuf = b :: rest) :
    passCtl s = some (if buf.length + 1 < len.toNat + 3 then
        goto (.rxBody p len (buf ++ [b])) ({ s with rxbuf := rest }.call (readCall s.cfg.readTimeout b))
      else pollDecode p (buf ++ [b]) ({ s with rxbuf := rest }.call (readCall s.cfg.readTimeout b))) := by
  simp only [passCtl, hc, atRxBody, takeByte, hq, readCall]

@[simp] theorem retryCheck_rst (s : State) : (retryCheck s).rst = s.rst := by
  obtain ⟨-, h⟩ | ⟨q, -, h⟩ := retryCheck_cases s
  · rw [h]; rfl
  · rw [h]; rfl

@[simp] theorem pollDone_rst (p : Poller) (r : Option Packet) (s : State) : (pollDone p r s).rst = s.rst := by
  obtain ⟨-, pkt, -, h⟩ | ⟨-, -, h⟩ | ⟨k, -, h⟩ := pollDone_cases p r s
  · rw [h]; rfl
  · rw [h, retryCheck_rst]
  · rw [h]; rfl

@[simp] theorem pollRaise_rst (p : Poller) (e : Event) (s : State) : (pollRaise p e s).rst = s.rst := by
  rw [pollRaise, pollDone_rst]; rfl

@[simp] theorem pollDecode_rst (p : Poller) (buf : List Byte) (s : State) : (pollDecode p buf s).rst = s.rst := by
  unfold pollDecode
  split
  · rw [pollDone_rst]; rfl
  · rw [pollRaise_rst]; rfl

/-- POLL's end does not look at CTL. -/
theorem pollDone_goto (p : Poller) (r : Option Packet) (c : Ctl) (s : State) :
    pollDone p r (goto c s) = pollDone p r s := by
  cases p with
  | drain k => rfl
  | tick =>
    cases r with
    | some pkt => rfl
    | none =>
      change retryCheck (goto c s) = retryCheck s
      unfold retryCheck
      rw [goto_pend]
      cases s.pend <;> rfl

theorem pollRaise_goto (p : Poller) (e : Event) (c : Ctl) (s : State) :
    pollRaise p e (goto c s) = pollRaise p e s :=
  pollDone_goto p none c (emit e (flush s))

theorem pollDecode_goto (p : Poller) (buf : List Byte) (c : Ctl) (s : State) :
    pollDecode p buf (goto c s) = pollDecode p buf s := by
  unfold pollDecode
  cases decodeFrame buf with
  | ok pkt => exact pollDone_goto p (some pkt) c (flush (sumBytes (summed buf) s))
  | error e => exact pollRaise_goto p (rxEvent e) c (sumBytes (summed buf) s)

/-- POLL from byte RX_IDX on when too few bytes come: SHORT_READ (41_bus_transport.md R110). -/
theorem settle_rxBody_short {s : State} {p : Poller} {len : Byte} {buf : List Byte} (hc : s.ctl = .rxBody p len buf)
    (hr : s.rst = none) (hs : buf.length + s.rxbuf.length < len.toNat + 3) :
    settle s = settle (pollRaise p (.shortRead len (buf.length + s.rxbuf.length)) { s with
      rxbuf := []
      trace := s.trace ++ s.rxbuf.map (readCall s.cfg.readTimeout) ++ [.rxByte s.cfg.readTimeout none] }) := by
  induction hq : s.rxbuf generalizing s buf with
  | nil =>
    rw [settle_of_pass hr (passCtl_rxBody_none hc hq) (by rw [pollRaise_rst]; exact hr)]
    simp [State.call, hq]
  | cons b rest ih =>
    have hlen : s.rxbuf.length = rest.length + 1 := by rw [hq]; rfl
    have hp := passCtl_rxBody_some hc hq
    rw [if_pos (by omega)] at hp
    rw [settle_of_pass hr hp hr,
      ih (s := goto (.rxBody p len (buf ++ [b])) (State.call { s with rxbuf := rest } (readCall s.cfg.readTimeout b))) (buf := buf ++ [b])
        rfl hr (by simp only [goto_rxbuf, State.call_rxbuf, List.length_append, List.length_singleton]; omega) rfl]
    rw [← pollRaise_goto p _ s.ctl]
    simp [State.call, goto, readCall, Nat.add_assoc, Nat.add_comm 1]

/-- POLL from byte RX_IDX on when all bytes come: DECODE judges exactly `length + 3` bytes (41_bus_transport.md R110). -/
theorem settle_rxBody_full {s : State} {p : Poller} {len : Byte} {buf : List Byte} {n : Nat}
    (hc : s.ctl = .rxBody p len buf) (hr : s.rst = none) (hn : buf.length + (n + 1) = len.toNat + 3)
    (hs : n + 1 ≤ s.rxbuf.length) :
    settle s = settle (pollDecode p (buf ++ s.rxbuf.take (n + 1)) { s with
      rxbuf := s.rxbuf.drop (n + 1)
      trace := s.trace ++ (s.rxbuf.take (n + 1)).map (readCall s.cfg.readTimeout) }) := by
  induction n generalizing s buf with
  | zero =>
    match hq : s.rxbuf with
    | [] => rw [hq] at hs; simp at hs
    | b :: rest =>
      have hp := passCtl_rxBody_some hc hq
      rw [if_neg (by omega)] at hp
      rw [settle_of_pass hr hp (by rw [pollDecode_rst]; exact hr)]
      simp [State.call]
  | succ n ih =>
    match hq : s.rxbuf with
    | [] => rw [hq] at hs; simp at hs
    | b :: rest =>
      have hlen : s.rxbuf.length = rest.length + 1 := by rw [hq]; rfl
      have hp := passCtl_rxBody_some hc hq
      rw [if_pos (by omega)] at hp
      rw [settle_of_pass hr hp hr,
        ih (s := goto (.rxBody p len (buf ++ [b])) (State.call { s with rxbuf := rest } (readCall s.cfg.readTimeout b))) (buf := buf ++ [b])
          rfl hr (by simp only [List.length_append, List.length_singleton]; omega)
          (by simp only [goto_rxbuf, State.call_rxbuf]; omega),
        ← pollDecode_goto p _ s.ctl]
      simp [State.call, goto, readCall]

end Sys2Proof.Machine
end

