-- ==== Sys2Proof/Laws/Points.lean ====
section
/-! SUPPORT. `settle` at each wait point, where the reset input is not asserted and the answer is there: one equation per
case of the wait point, to be chained by `Eq.trans`. A right side is a nested update: flatten it with
`dsimp only [goto, emit, State.call]` before the next equation, or the terms grow with every step. Last, what no wait point
writes (`Stays`). -/

namespace Sys2Proof.Machine

/-- Where a command rests, `settle` does nothing. -/
theorem settle_idle {s : State} (hc : s.ctl = .idle) : settle s = s :=
  settle_of_stuck (by simp only [passCtl, hc])

theorem settle_dispatch {s : State} {pkt : Packet} (hc : s.ctl = .dispatch pkt) : settle s = s :=
  settle_of_stuck (by simp only [passCtl, hc])

theorem settle_respond (status : Status) (s : State) : settle (respond status s) = respond status s :=
  settle_idle rfl

@[simp] theorem requestDone_rst (op : SendCmd) (s : State) : (requestDone op s).rst = s.rst := by
  rw [requestDone_eq]; rfl

@[simp] theorem armed_rst (k : Sender) (n : Nat) (s : State) : (armed k n s).rst = s.rst := by
  obtain ⟨op, -, h⟩ | ⟨-, h⟩ | ⟨-, h⟩ := armed_cases k n s <;> rw [h]
  · rw [requestDone_rst]; rfl
  · rw [retryCheck_rst]; rfl
  · rfl

@[simp] theorem retryTest_rst (n : Nat) (s : State) : (retryTest n s).rst = s.rst := by
  obtain ⟨-, h⟩ | ⟨q, -, -, h⟩ | ⟨-, -, h⟩ := retryTest_cases n s <;> rw [h] <;> rfl

theorem settle_rxSample_idle {s : State} {p : Poller} {ls : List Bool} (hc : s.ctl = .rxSample p) (hr : s.rst = none)
    (hl : s.lineQ = false :: ls) :
    settle s = settle (pollDone p none (State.call { s with lineQ := ls } (.lineActive false))) :=
  settle_of_pass hr (by simp only [passCtl, hc, atRxSample, takeLine, hl]) (by rw [pollDone_rst]; exact hr)

theorem settle_rxSample_active {s : State} {p : Poller} {ls : List Bool} (hc : s.ctl = .rxSample p)
    (hr : s.rst = none) (hl : s.lineQ = true :: ls) :
    settle s = settle (goto (.rxWaitEnd p) (State.call { s with lineQ := ls } (.lineActive true))) :=
  settle_of_pass hr (by simp only [passCtl, hc, atRxSample, takeLine, hl]) hr

theorem settle_rxWaitEnd_timedOut {s : State} {p : Poller} {rest : List Burst} (hc : s.ctl = .rxWaitEnd p)
    (hr : s.rst = none) (hb : s.burstQ = .timedOut :: rest) :
    settle s = settle (pollRaise p (.timeout .activity)
      (State.call { s with burstQ := rest } (.waitActivityEnd s.cfg.activityTimeout false))) :=
  settle_of_pass hr (by simp only [passCtl, hc, atRxWaitEnd, takeBurst, hb]) (by rw [pollRaise_rst]; exact hr)

theorem settle_rxWaitEnd_bytes {s : State} {p : Poller} {bs : List Byte} {rest : List Burst}
    (hc : s.ctl = .rxWaitEnd p) (hr : s.rst = none) (hb : s.burstQ = .bytes bs :: rest) :
    settle s = settle (goto (.rxLen p) (State.call { s with burstQ := rest, rxbuf := s.rxbuf ++ bs }
      (.waitActivityEnd s.cfg.activityTimeout true))) :=
  settle_of_pass hr (by simp only [passCtl, hc, atRxWaitEnd, takeBurst, hb]) hr

theorem settle_rxLen_none {s : State} {p : Poller} (hc : s.ctl = .rxLen p) (hr : s.rst = none) (hq : s.rxbuf = []) :
    settle s = settle (pollRaise p (.timeout .length) (s.call (.rxByte s.cfg.readTimeout none))) :=
  settle_of_pass hr (by simp only [passCtl, hc, atRxLen, takeByte, hq]) (by rw [pollRaise_rst]; exact hr)

theorem settle_rxLen_some {s : State} {p : Poller} {len : Byte} {rest : List Byte} (hc : s.ctl = .rxLen p)
    (hr : s.rst = none) (hq : s.rxbuf = len :: rest) :
    settle s = settle (goto (.rxBody p len [len])
      (State.call { s with rxbuf := rest } (readCall s.cfg.readTimeout len))) :=
  settle_of_pass hr (by simp only [passCtl, hc, atRxLen, takeByte, hq, readCall]) hr

theorem settle_arbSample_idle {s : State} {k : Sender} {ls : List Bool} (hc : s.ctl = .arbSample k)
    (hr : s.rst = none) (hl : s.lineQ = false :: ls) :
    settle s = settle (beginTransmit k (State.call { s with lineQ := ls } (.lineActive false))) :=
  settle_of_pass hr (by simp only [passCtl, hc, atArbSample, takeLine, hl]) hr

theorem settle_arbSample_busy {s : State} {k : Sender} {ls : List Bool} (hc : s.ctl = .arbSample k)
    (hr : s.rst = none) (hl : s.lineQ = true :: ls) :
    settle s = settle (goto (.rxSample (.drain k)) (emit .busBusy
      (State.call { s with lineQ := ls } (.lineActive true)))) :=
  settle_of_pass hr (by simp only [passCtl, hc, atArbSample, takeLine, hl]) hr

theorem settle_arbDraw {s : State} {k : Sender} {x : Nat} {ds : List Nat} (hc : s.ctl = .arbDraw k)
    (hr : s.rst = none) (hd : s.drawQ = x :: ds) :
    settle s = settle (goto (.arbSleep k (clampDraw s.cfg x))
      (State.call { s with drawQ := ds } (.drawBackoff (clampDraw s.cfg x)))) :=
  settle_of_pass hr (by simp only [passCtl, hc, atArbDraw, takeDraw, hd]) hr

theorem settle_arbSleep {s : State} {k : Sender} {d : Nat} (hc : s.ctl = .arbSleep k d) (hr : s.rst = none) :
    settle s = settle (goto (.arbSample k) (s.call (.sleep d))) :=
  settle_of_pass hr (by simp only [passCtl, hc, atArbSleep]) hr

theorem settle_txSettle {s : State} {k : Sender} (hc : s.ctl = .txSettle k) (hr : s.rst = none) :
    settle s = settle (goto (.txByte k 0) (s.call (.sleep s.cfg.settleTime))) :=
  settle_of_pass hr (by simp only [passCtl, hc, atTxSettle]) hr

theorem settle_retryTest {s : State} {x : Nat} {ns : List Nat} (hc : s.ctl = .timeSample .retryTest)
    (hr : s.rst = none) (hn : s.nowQ = x :: ns) :
    settle s = settle (retryTest (max s.time x)
      (State.call { s with nowQ := ns, time := max s.time x } (.now (max s.time x)))) :=
  settle_of_pass hr (by simp only [passCtl, hc, atTimeSample, takeNow, hn]) (by rw [retryTest_rst]; exact hr)

theorem settle_arm {s : State} {k : Sender} {x : Nat} {ns : List Nat} (hc : s.ctl = .timeSample (.arm k))
    (hr : s.rst = none) (hn : s.nowQ = x :: ns) :
    settle s = settle (armed k (max s.time x)
      (State.call { s with nowQ := ns, time := max s.time x } (.now (max s.time x)))) :=
  settle_of_pass hr (by simp only [passCtl, hc, atTimeSample, takeNow, hn]) (by rw [armed_rst]; exact hr)

/-! ### What no wait point writes -/

/-- What passing wait points leaves: ADDR, LAST_SEQ, the pending packet, the backlog, the parameters and the command words
not taken; time does not decrease; MODE stays unless a running DISARMED ends. -/
structure Stays (s t : State) : Prop where
  addr : t.addr = s.addr
  lastSeq : t.lastSeq = s.lastSeq
  pend : t.pend = s.pend
  bq : t.bq = s.bq
  cfg : t.cfg = s.cfg
  cmdQ : t.cmdQ = s.cmdQ
  time : s.time ≤ t.time
  mode : t.mode = s.mode ∨ t.mode = .disarmed

theorem Stays.refl (s : State) : Stays s s := ⟨rfl, rfl, rfl, rfl, rfl, rfl, Nat.le_refl _, .inl rfl⟩

theorem Stays.trans {s t u : State} (h : Stays s t) (g : Stays t u) : Stays s u where
  addr := g.addr.trans h.addr
  lastSeq := g.lastSeq.trans h.lastSeq
  pend := g.pend.trans h.pend
  bq := g.bq.trans h.bq
  cfg := g.cfg.trans h.cfg
  cmdQ := g.cmdQ.trans h.cmdQ
  time := Nat.le_trans h.time g.time
  mode := g.mode.elim (fun e => h.mode.imp e.trans e.trans) .inr

theorem Stays.after {s t u : State} (g : Stays t u) (h : Stays s t) : Stays s u := h.trans g

theorem goto_stays (c : Ctl) (s : State) : Stays s (goto c s) := ⟨rfl, rfl, rfl, rfl, rfl, rfl, Nat.le_refl _, .inl rfl⟩
theorem emit_stays (e : Event) (s : State) : Stays s (emit e s) := ⟨rfl, rfl, rfl, rfl, rfl, rfl, Nat.le_refl _, .inl rfl⟩
theorem respond_stays (st : Status) (s : State) : Stays s (respond st s) :=
  ⟨rfl, rfl, rfl, rfl, rfl, rfl, Nat.le_refl _, .inl rfl⟩
theorem call_stays (c : EnvCall) (s : State) : Stays s (s.call c) := ⟨rfl, rfl, rfl, rfl, rfl, rfl, Nat.le_refl _, .inl rfl⟩
theorem sendGated_stays (k : Sender) (q : Pending) (s : State) : Stays s (sendGated k q s) :=
  ⟨rfl, rfl, rfl, rfl, rfl, rfl, Nat.le_refl _, .inl rfl⟩

theorem requestDone_stays (op : SendCmd) (s : State) : Stays s (requestDone op s) := by
  cases op
  · exact respond_stays _ _
  · exact ⟨rfl, rfl, rfl, rfl, rfl, rfl, Nat.le_refl _, .inr rfl⟩
  · exact respond_stays _ _

theorem retryCheck_stays (s : State) : Stays s (retryCheck s) := by
  obtain ⟨-, h⟩ | ⟨q, -, h⟩ := retryCheck_cases s <;> rw [h]
  · exact respond_stays _ _
  · exact goto_stays _ _

theorem pollDone_stays (p : Poller) (r : Option Packet) (s : State) : Stays s (pollDone p r s) := by
  obtain ⟨-, pkt, -, h⟩ | ⟨-, -, h⟩ | ⟨k, -, h⟩ := pollDone_cases p r s <;> rw [h]
  · exact goto_stays _ _
  · exact retryCheck_stays s
  · exact (emit_stays _ _).trans (goto_stays _ _)

theorem pollRaise_stays (p : Poller) (e : Event) (s : State) : Stays s (pollRaise p e s) := by
  unfold pollRaise
  exact (pollDone_stays p none (emit e (flush s))).after ⟨rfl, rfl, rfl, rfl, rfl, rfl, Nat.le_refl _, .inl rfl⟩

theorem pollDecode_stays (p : Poller) (buf : List Byte) (s : State) : Stays s (pollDecode p buf s) := by
  have sum : Stays s (sumBytes (summed buf) s) := ⟨rfl, rfl, rfl, rfl, rfl, rfl, Nat.le_refl _, .inl rfl⟩
  have fl : ∀ u : State, Stays u (flush u) := fun u => ⟨rfl, rfl, rfl, rfl, rfl, rfl, Nat.le_refl _, .inl rfl⟩
  unfold pollDecode
  cases decodeFrame buf with
  | ok pkt => exact (sum.trans (fl _)).trans (pollDone_stays _ _ _)
  | error e => exact sum.trans (pollRaise_stays _ _ _)

theorem retryTest_stays (n : Nat) (s : State) : Stays s (retryTest n s) := by
  obtain ⟨-, h⟩ | ⟨q, -, -, h⟩ | ⟨-, -, h⟩ := retryTest_cases n s <;> rw [h]
  · exact respond_stays _ _
  · exact (emit_stays _ _).trans (sendGated_stays _ _ _)
  · exact respond_stays _ _

theorem armed_stays (k : Sender) (n : Nat) (s : State) : Stays s (armed k n s) := by
  have arm : Stays s (armRetry n s) := ⟨rfl, rfl, rfl, rfl, rfl, rfl, Nat.le_refl _, .inl rfl⟩
  obtain ⟨op, -, h⟩ | ⟨-, h⟩ | ⟨-, h⟩ := armed_cases k n s <;> rw [h]
  · exact arm.trans (requestDone_stays _ _)
  · exact arm.trans (retryCheck_stays _)
  · exact arm.trans (respond_stays _ _)

theorem pass_stays {s t : State} (h : Pass s t) : Stays s t := by
  cases h with
  | rxIdle p rest hc hq => exact (pollDone_stays _ _ _).after ⟨rfl, rfl, rfl, rfl, rfl, rfl, Nat.le_refl _, .inl rfl⟩
  | rxActive p rest hc hq => exact ⟨rfl, rfl, rfl, rfl, rfl, rfl, Nat.le_refl _, .inl rfl⟩
  | rxStuck p rest hc hq =>
    exact (pollRaise_stays _ _ _).after ⟨rfl, rfl, rfl, rfl, rfl, rfl, Nat.le_refl _, .inl rfl⟩
  | rxEnded p bs rest hc hq => exact ⟨rfl, rfl, rfl, rfl, rfl, rfl, Nat.le_refl _, .inl rfl⟩
  | rxNoLength p hc hq => exact (call_stays _ _).trans (pollRaise_stays _ _ _)
  | rxLength p b rest hc hq => exact ⟨rfl, rfl, rfl, rfl, rfl, rfl, Nat.le_refl _, .inl rfl⟩
  | rxShort p len buf hc hq => exact (call_stays _ _).trans (pollRaise_stays _ _ _)
  | rxMore p len b buf rest hc hq hl => exact ⟨rfl, rfl, rfl, rfl, rfl, rfl, Nat.le_refl _, .inl rfl⟩
  | rxLast p len b buf rest hc hq hl =>
    exact (pollDecode_stays _ _ _).after ⟨rfl, rfl, rfl, rfl, rfl, rfl, Nat.le_refl _, .inl rfl⟩
  | arbIdle k rest hc hq => exact ⟨rfl, rfl, rfl, rfl, rfl, rfl, Nat.le_refl _, .inl rfl⟩
  | arbBusy k rest hc hq => exact ⟨rfl, rfl, rfl, rfl, rfl, rfl, Nat.le_refl _, .inl rfl⟩
  | arbDraw k x rest hc hq => exact ⟨rfl, rfl, rfl, rfl, rfl, rfl, Nat.le_refl _, .inl rfl⟩
  | arbSlept k d hc => exact ⟨rfl, rfl, rfl, rfl, rfl, rfl, Nat.le_refl _, .inl rfl⟩
  | settled k hc => exact ⟨rfl, rfl, rfl, rfl, rfl, rfl, Nat.le_refl _, .inl rfl⟩
  | txMore k i b hc hb hl => exact ⟨rfl, rfl, rfl, rfl, rfl, rfl, Nat.le_refl _, .inl rfl⟩
  | txLast k i b hc hb hl => exact ⟨rfl, rfl, rfl, rfl, rfl, rfl, Nat.le_refl _, .inl rfl⟩
  | txNone k i hc hb => exact ⟨rfl, rfl, rfl, rfl, rfl, rfl, Nat.le_refl _, .inl rfl⟩
  | retryTest x rest hc hq =>
    exact (retryTest_stays _ _).after ⟨rfl, rfl, rfl, rfl, rfl, rfl, Nat.le_max_left _ _, .inl rfl⟩
  | arm k x rest hc hq =>
    exact (armed_stays _ _ _).after ⟨rfl, rfl, rfl, rfl, rfl, rfl, Nat.le_max_left _ _, .inl rfl⟩

/-- What a whole run leaves. -/
theorem settle_stays (s : State) : Stays s (settle s) := by
  refine settle_induction (P := Stays s) ?_ (Stays.refl s)
  intro t u h ha
  obtain ⟨-, v, hv, rfl⟩ := advance_pass ha
  obtain ⟨g1, g2, g3, g4, g5, g6, g7, g8⟩ := h.trans (pass_stays hv)
  exact ⟨g1, g2, g3, g4, g5, g6, g7, g8⟩

end Sys2Proof.Machine
end

