-- ==== Sys2Proof/Laws/Steps.lean ====
section
/-! SUPPORT. What one step can do, said once. -/

namespace Sys2Proof.Machine

/-- Where the reset input is not asserted, a step does one of these and nothing else. -/
theorem step_cases {s t : State} (hr : s.rst ≠ some 0) (h : step s = .next t) :
    (s.ctl = .idle ∧ s.cmdQ = [] ∧ t = s) ∨
    (∃ w rest i, s.ctl = .idle ∧ s.cmdQ = w :: rest ∧ decodeCommand w = .ok i ∧
      exec i { s with cmdQ := rest } = .next t) ∨
    (∃ w rest, s.ctl = .idle ∧ s.cmdQ = w :: rest ∧ t = rejectWord w { s with cmdQ := rest }) ∨
    (∃ pkt i, s.ctl = .dispatch pkt ∧ decodePacket pkt = .ok i ∧ exec i s = .next t) ∨
    (∃ pkt, s.ctl = .dispatch pkt ∧ t = forwardReserved pkt s) ∨
    (s.ctl ≠ .idle ∧ (∀ pkt, s.ctl ≠ .dispatch pkt) ∧ t = settle s) := by
  unfold step at h
  split at h
  · contradiction
  split at h
  · next hc =>
    split at h
    · next hq => cases h; exact .inl ⟨hc, hq, rfl⟩
    · next w rest hq =>
      split at h
      · next i hd => exact .inr (.inl ⟨w, rest, i, hc, hq, hd, h⟩)
      · cases h; exact .inr (.inr (.inl ⟨w, rest, hc, hq, rfl⟩))
  · next pkt hc =>
    split at h
    · next i hd => exact .inr (.inr (.inr (.inl ⟨pkt, i, hc, hd, h⟩)))
    · cases h; exact .inr (.inr (.inr (.inr (.inl ⟨pkt, hc, rfl⟩))))
  · next h1 h2 => cases h; exact .inr (.inr (.inr (.inr (.inr ⟨h1, h2, rfl⟩))))

/-- Where it is asserted, the step resets. -/
theorem step_reset {s : State} (hr : s.rst = some 0) : step s = .next (hardReset s) := by
  simp only [step, hr]

/-- The command port decodes to commands only. -/
theorem decodeCommand_cases {w : Byte} {i : Instr} (h : decodeCommand w = .ok i) :
    i = .tick ∨ i = .unableToArm ∨ i = .disarmed ∨ i = .strike ∨ ∃ m, i = .setMode m := by
  unfold decodeCommand at h
  repeat' split at h
  all_goals cases h
  · exact .inr (.inr (.inr (.inr ⟨_, rfl⟩)))
  · exact .inl rfl
  · exact .inr (.inl rfl)
  · exact .inr (.inr (.inl rfl))
  · exact .inr (.inr (.inr (.inl rfl)))

/-- An accepted frame decodes to its kind's message only. -/
theorem decodePacket_cases {pkt : Packet} {i : Instr} (h : decodePacket pkt = .ok i) :
    ∃ k, MsgKind.ofByte pkt.type = some k ∧ i = Instr.ofKind k pkt.toMsg := by
  unfold decodePacket at h
  split at h
  · next k hk => cases h; exact ⟨k, hk, rfl⟩
  · cases h

end Sys2Proof.Machine
end

