-- ==== Sys2Proof/Tests/Slice0.lean ====
section
/-! SUPPORT. The model's own tests. Expected results come from spec/95_test_vectors.md (the vector's name stands at each) and
from the encodings of spec/30_encoding.md; then one witness per obligation that has hypotheses. -/

namespace Sys2Proof.Tests
open Sys2Proof.Machine

set_option maxRecDepth 8192

/-- The parameters of spec/95_test_vectors.md: NODE_ADDR 0x0010, BACKOFF 1 to 5, RETRY_INTERVAL 100, BACKLOG_DEPTH 1. -/
def params : Params where
  nodeAddr := 0x0010#16
  backoffMin := 1
  backoffMax := 5
  retryInterval := 100
  readTimeout := 7
  activityTimeout := 9
  settleTime := 3
  baud := 0
  tickPeriod := 0
  timeUnit := 0
  backlogDepth := 1
  rxActiveLevel := true
  backoff_le := by decide
  retry_pos := by decide
  depth_pos := by decide

/-- The reset state of that instance. -/
def s0 : State := { State.reset with addr := 0x0010#16, cfg := params }

def none0 : Payload := ⟨[], by decide⟩

/-- A pending packet to the controller. -/
def pending (type seq : Byte) : Pending := ⟨0x0000#16, type, seq, none0⟩

/-- The next state's field `f`, if there is a next state. -/
def after {α : Type} (o : Host.Outcome State Fault Refusal) (f : State → α) : Option α :=
  match o with
  | .next t => some (f t)
  | _ => none

/-- A frame header with source 0x0000, dest 0x0010, type `t`, seq 0x21, length 6 as a table word. -/
def header (t : Nat) : Nat := 0x21000010000006 + t * 0x10000000000

/-! ### WellFormed: a payload of 250 bytes is refused, for each message; a command is always well formed -/

def tooLong : Msg := ⟨0#16, 0#16, 0#8, List.replicate 250 0#8⟩
def longest : Msg := ⟨0#16, 0#16, 0#8, List.replicate 249 0#8⟩

theorem test_wf_msgRequestId : (Instr.msgRequestId tooLong).wf = false ∧ (Instr.msgRequestId longest).wf = true := by decide
theorem test_wf_msgResponseId : (Instr.msgResponseId tooLong).wf = false ∧ (Instr.msgResponseId longest).wf = true := by decide
theorem test_wf_msgAck : (Instr.msgAck tooLong).wf = false ∧ (Instr.msgAck longest).wf = true := by decide
theorem test_wf_msgStop : (Instr.msgStop tooLong).wf = false ∧ (Instr.msgStop longest).wf = true := by decide
theorem test_wf_msgConfigure : (Instr.msgConfigure tooLong).wf = false ∧ (Instr.msgConfigure longest).wf = true := by decide
theorem test_wf_msgStart : (Instr.msgStart tooLong).wf = false ∧ (Instr.msgStart longest).wf = true := by decide
theorem test_wf_msgStrike : (Instr.msgStrike tooLong).wf = false ∧ (Instr.msgStrike longest).wf = true := by decide
theorem test_wf_msgError : (Instr.msgError tooLong).wf = false ∧ (Instr.msgError longest).wf = true := by decide
theorem test_wf_msgDefused : (Instr.msgDefused tooLong).wf = false ∧ (Instr.msgDefused longest).wf = true := by decide
theorem test_wf_msgNeedy : (Instr.msgNeedy tooLong).wf = false ∧ (Instr.msgNeedy longest).wf = true := by decide
theorem test_wf_msgReadStatus : (Instr.msgReadStatus tooLong).wf = false ∧ (Instr.msgReadStatus longest).wf = true := by decide
theorem test_wf_msgStatus : (Instr.msgStatus tooLong).wf = false ∧ (Instr.msgStatus longest).wf = true := by decide
theorem test_wf_msgSound : (Instr.msgSound tooLong).wf = false ∧ (Instr.msgSound longest).wf = true := by decide
theorem test_wf_commands : Instr.tick.wf = true ∧ Instr.unableToArm.wf = true ∧ Instr.disarmed.wf = true ∧
    Instr.strike.wf = true ∧ (Instr.setMode .sleep).wf = true := by decide

/-! ### Decode: words written out from the spec's encodings -/

/-- 6.1. -/
theorem test_decode_tick : decode .command [0b00000000#8] = .ok .tick := by decide
theorem test_decode_unableToArm : decode .command [0b00000001#8] = .ok .unableToArm := by decide
theorem test_decode_disarmed : decode .command [0b00000010#8] = .ok .disarmed := by decide
theorem test_decode_strike : decode .command [0b00000011#8] = .ok .strike := by decide
theorem test_decode_setMode : decode .command [0b00000100#8] = .ok (.setMode .sleep) ∧
    decode .command [0b00001100#8] = .ok (.setMode .ready) ∧
    decode .command [0b00010100#8] = .ok (.setMode .armed) ∧
    decode .command [0b00011100#8] = .ok (.setMode .disarmed) := by decide
/-- 6.1, the illegal words. -/
theorem test_decode_illegal : ∀ w ∈ [0x05#8, 0x06#8, 0x07#8, 0x08#8, 0x1B#8, 0x20#8, 0x80#8, 0xFF#8, 0x24#8],
    decode .command [w] = .error (.illegalCommand w) := by decide
theorem test_decode_two_words : decode .command [0x00#8, 0x00#8] = .error .notOneWord := by decide

/-- The frames of 6.3. -/
theorem test_decode_msgRequestId :
    decode .line [0x06#8, 0x00#8, 0x00#8, 0x10#8, 0x00#8, 0x00#8, 0x21#8, 0xC8#8, 0xFF#8] =
      .ok (.msgRequestId ⟨0x0000#16, 0x0010#16, 0x21#8, []⟩) := by decide
theorem test_decode_msgResponseId :
    decode .line [0x06#8, 0x00#8, 0x00#8, 0x10#8, 0x00#8, 0x01#8, 0x21#8, 0xC7#8, 0xFF#8] =
      .ok (.msgResponseId ⟨0x0000#16, 0x0010#16, 0x21#8, []⟩) := by decide
theorem test_decode_msgAck :
    decode .line [0x06#8, 0x00#8, 0x00#8, 0x10#8, 0x00#8, 0x02#8, 0x21#8, 0xC6#8, 0xFF#8] =
      .ok (.msgAck ⟨0x0000#16, 0x0010#16, 0x21#8, []⟩) := by decide
theorem test_decode_msgStop :
    decode .line [0x06#8, 0x00#8, 0x00#8, 0x10#8, 0x00#8, 0x03#8, 0x21#8, 0xC5#8, 0xFF#8] =
      .ok (.msgStop ⟨0x0000#16, 0x0010#16, 0x21#8, []⟩) := by decide
theorem test_decode_msgConfigure :
    decode .line [0x06#8, 0x00#8, 0x00#8, 0x10#8, 0x00#8, 0x04#8, 0x21#8, 0xC4#8, 0xFF#8] =
      .ok (.msgConfigure ⟨0x0000#16, 0x0010#16, 0x21#8, []⟩) := by decide
theorem test_decode_msgStart :
    decode .line [0x06#8, 0x00#8, 0x00#8, 0x10#8, 0x00#8, 0x05#8, 0x21#8, 0xC3#8, 0xFF#8] =
      .ok (.msgStart ⟨0x0000#16, 0x0010#16, 0x21#8, []⟩) := by decide
theorem test_decode_msgStrike :
    decode .line [0x06#8, 0x00#8, 0x00#8, 0x10#8, 0x00#8, 0x06#8, 0x21#8, 0xC2#8, 0xFF#8] =
      .ok (.msgStrike ⟨0x0000#16, 0x0010#16, 0x21#8, []⟩) := by decide
theorem test_decode_msgError :
    decode .line [0x06#8, 0x00#8, 0x00#8, 0x10#8, 0x00#8, 0x07#8, 0x21#8, 0xC1#8, 0xFF#8] =
      .ok (.msgError ⟨0x0000#16, 0x0010#16, 0x21#8, []⟩) := by decide
theorem test_decode_msgDefused :
    decode .line [0x06#8, 0x00#8, 0x00#8, 0x10#8, 0x00#8, 0x08#8, 0x21#8, 0xC0#8, 0xFF#8] =
      .ok (.msgDefused ⟨0x0000#16, 0x0010#16, 0x21#8, []⟩) := by decide
theorem test_decode_msgNeedy :
    decode .line [0x06#8, 0x00#8, 0x00#8, 0x10#8, 0x00#8, 0x09#8, 0x21#8, 0xBF#8, 0xFF#8] =
      .ok (.msgNeedy ⟨0x0000#16, 0x0010#16, 0x21#8, []⟩) := by decide
theorem test_decode_msgReadStatus :
    decode .line [0x06#8, 0x00#8, 0x00#8, 0x10#8, 0x00#8, 0x0A#8, 0x21#8, 0xBE#8, 0xFF#8] =
      .ok (.msgReadStatus ⟨0x0000#16, 0x0010#16, 0x21#8, []⟩) := by decide
theorem test_decode_msgStatus :
    decode .line [0x06#8, 0x00#8, 0x00#8, 0x10#8, 0x00#8, 0x0B#8, 0x21#8, 0xBD#8, 0xFF#8] =
      .ok (.msgStatus ⟨0x0000#16, 0x0010#16, 0x21#8, []⟩) := by decide
theorem test_decode_msgSound :
    decode .line [0x06#8, 0x00#8, 0x00#8, 0x10#8, 0x00#8, 0x0C#8, 0x21#8, 0xBC#8, 0xFF#8] =
      .ok (.msgSound ⟨0x0000#16, 0x0010#16, 0x21#8, []⟩) := by decide
theorem test_decode_reserved :
    decode .line [0x06#8, 0x00#8, 0x00#8, 0x10#8, 0x00#8, 0xFF#8, 0x21#8, 0xC9#8, 0xFE#8] =
      .error (.reservedKind 0xFF#8) := by decide
/-- V2.6: each field of its own bytes. -/
theorem test_decode_fields :
    decode .line [0x07#8, 0x34#8, 0x12#8, 0xCD#8, 0xAB#8, 0x0C#8, 0x80#8, 0x00#8, 0xAE#8, 0xFD#8] =
      .ok (.msgSound ⟨0x1234#16, 0xABCD#16, 0x80#8, [0x00#8]⟩) := by decide
/-- V2.5. -/
theorem test_encode_status :
    encode (.msgStatus ⟨0x0010#16, 0x0000#16, 0x7F#8, [0xFF#8, 0xFF#8, 0x01#8]⟩) =
      [0x09#8, 0x10#8, 0x00#8, 0x00#8, 0x00#8, 0x0B#8, 0x7F#8, 0xFF#8, 0xFF#8, 0x01#8, 0x5D#8, 0xFD#8] := by decide
/-- V1.6, V1.8, V1.9. -/
theorem test_checksum : chkSum (List.replicate 256 0xFF#8) = 0xFF00#16 ∧
    chkVerify [0x06#8, 0x10#8, 0x00#8, 0x00#8, 0x00#8, 0x06#8, 0x03#8] 0xFFE1#16 = false ∧
    chkVerify [0x06#8, 0x10#8, 0x00#8, 0x00#8, 0x00#8, 0x06#8, 0x03#8] 0xE0FF#16 = false := by decide
/-- V3.2, V3.8. -/
theorem test_decode_checksum_error :
    decodeFrame [0x06#8, 0x00#8, 0x00#8, 0x10#8, 0x00#8, 0x02#8, 0x03#8, 0xE6#8, 0xFF#8] =
      .error (.checksumError 0x001B#16 0xFFE6#16) ∧
    decodeFrame [0x02#8, 0x00#8, 0x00#8, 0x10#8, 0x00#8, 0x02#8, 0x01#8, 0xE6#8, 0xFF#8] =
      .error (.checksumError 0x0002#16 0x0010#16) := by decide
/-- V3.10, V3.12. -/
theorem test_decode_missing_bytes :
    decodeFrame [0x06#8, 0x00#8, 0x00#8, 0x10#8, 0x00#8, 0x02#8, 0x01#8, 0xE6#8] = .error (.shortRead 0x06#8 8) ∧
    decodeFrame [] = .error .timeout := by decide
/-- V3.13, V3.15. -/
theorem test_decode_length_error : decodeFrame [0x00#8, 0xFF#8, 0xFF#8] = .error (.lengthError 0x00#8) ∧
    decodeFrame [0x05#8, 0x00#8, 0x00#8, 0x10#8, 0x00#8, 0x02#8, 0xE8#8, 0xFF#8] = .error (.lengthError 0x05#8) := by
  decide
/-- V3.16: surplus bytes. -/
theorem test_decode_surplus :
    decodeFrame [0x06#8, 0x00#8, 0x00#8, 0x10#8, 0x00#8, 0x0D#8, 0x09#8, 0xD3#8, 0xFF#8, 0xAA#8, 0xBB#8] =
      .ok ⟨0x06#8, 0x0000#16, 0x0010#16, 0x0D#8, 0x09#8, []⟩ := by decide

/-! ### Table words (30_encoding.md R77) -/

theorem test_table_commands : decodeTableWord 8 0x03 = some .strike ∧ decodeTableWord 8 0x1C = some (.setMode .disarmed) ∧
    decodeTableWord 8 0x05 = none := by decide
theorem test_table_frames : decodeTableWord 56 (header 2) = some (.msgAck ⟨0x0000#16, 0x0010#16, 0x21#8, []⟩) ∧
    decodeTableWord 56 (header 13) = none := by decide
/-- The step runs the placed instruction first: a command, a frame. -/
theorem test_withFetchWord :
    after (step (s0.withFetchWord 8 0x0C)) State.mode = some .ready ∧
    after (step (State.reset.withFetchWord 56 (header 3))) State.lastSeq = some 0x21#8 := by decide

/-! ### One step of each command (6.2) -/

/-- V6.6: the retry fires at equality and sends the same bytes. -/
theorem test_tick_retry :
    after (exec .tick { s0 with pend := some (pending 0x07#8 0x01#8), pendNextRetry := 150, lastSeq := 0x02#8,
                                lineQ := [false, false], nowQ := [150, 152] })
      (fun t => (t.rsps, sentBytes t.trace, t.pendNextRetry, t.lastSeq)) =
    some ([⟨.ok, [.deliveryTimeout 0x01#8], none⟩],
      [0x06#8, 0x10#8, 0x00#8, 0x00#8, 0x00#8, 0x07#8, 0x01#8, 0xE1#8, 0xFF#8], 252, 0x02#8) := by decide
/-- P2 step 1: two busy samples, a frame drained and dropped, two backoffs, then the transmission. -/
theorem test_unableToArm_busy_line :
    after (exec .unableToArm { s0 with
        lineQ := [true, true, true, false, false]
        burstQ := [.bytes [0x07#8, 0x00#8, 0x00#8, 0x20#8, 0x00#8, 0x04#8, 0x55#8, 0x09#8, 0x76#8, 0xFF#8]]
        drawQ := [3, 5], nowQ := [50] })
      (fun t => (t.rsps, sentBytes t.trace, t.lastSeq, t.pendNextRetry)) =
    some ([⟨.ok, [.busBusy, .drained true, .busBusy, .drained false], none⟩],
      [0x06#8, 0x10#8, 0x00#8, 0x00#8, 0x00#8, 0x07#8, 0x01#8, 0xE1#8, 0xFF#8], 0x01#8, 150) := by decide
/-- V7.6: not guarded by the terminal mode. -/
theorem test_unableToArm_terminal :
    after (exec .unableToArm { s0 with mode := .disarmed, lastSeq := 0x01#8, lineQ := [false], nowQ := [9] })
      (fun t => (t.rsps, sentBytes t.trace, t.lastSeq)) =
    some ([⟨.ok, [], none⟩], [0x06#8, 0x10#8, 0x00#8, 0x00#8, 0x00#8, 0x07#8, 0x02#8, 0xE0#8, 0xFF#8], 0x02#8) := by
  decide
/-- V7.2. -/
theorem test_strike_sends :
    after (exec .strike { s0 with mode := .armed, lastSeq := 0x02#8, lineQ := [false], nowQ := [7] })
      (fun t => (t.rsps, sentBytes t.trace, t.lastSeq, t.pendNextRetry, t.mode)) =
    some ([⟨.ok, [], none⟩], [0x06#8, 0x10#8, 0x00#8, 0x00#8, 0x00#8, 0x06#8, 0x03#8, 0xE0#8, 0xFF#8], 0x03#8, 107,
      .armed) := by decide
/-- V6.2: the number wraps. -/
theorem test_strike_wraps :
    after (exec .strike { s0 with lastSeq := 0xFF#8, lineQ := [false], nowQ := [0] })
      (fun t => (t.lastSeq, t.pend, t.pendNextRetry)) =
    some (0x00#8, some (pending 0x06#8 0x00#8), 100) := by decide
/-- V7.8. -/
theorem test_disarmed_from_sleep :
    after (exec .disarmed { s0 with lineQ := [false], nowQ := [1] })
      (fun t => (t.rsps, sentBytes t.trace, t.mode, t.pend)) =
    some ([⟨.ok, [], none⟩], [0x06#8, 0x10#8, 0x00#8, 0x00#8, 0x00#8, 0x08#8, 0x01#8, 0xE0#8, 0xFF#8], .disarmed,
      some (pending 0x08#8 0x01#8)) := by decide
/-- V7.7: a refusal leaves MODE. -/
theorem test_disarmed_busy :
    after (exec .disarmed { s0 with mode := .armed, pend := some (pending 0x06#8 0x01#8),
                                    bq := [⟨0#16, 0x06#8, none0⟩] }) (fun t => (t.rsps, t.mode)) =
    some ([⟨.busy, [.txqFull], none⟩], .armed) := by decide
/-- V7.9, V7.10. -/
theorem test_setMode :
    after (exec (.setMode .armed) { s0 with mode := .ready }) State.mode = some .armed ∧
    after (exec (.setMode .ready) { s0 with mode := .disarmed }) (fun t => (t.rsps, t.mode)) =
      some ([⟨.badEdge, [.illegalModeEdge .disarmed .ready], none⟩], .disarmed) := by decide
/-- P4 step 4, steps 1 to 3. -/
theorem test_tick_bad_frames :
    after (exec .tick { s0 with lineQ := [true], burstQ := [.bytes [0x06#8, 0x00#8, 0x00#8, 0x10#8]] }) State.rsps =
      some [⟨.ok, [.shortRead 0x06#8 4], none⟩] ∧
    after (exec .tick { s0 with lineQ := [true], burstQ := [.timedOut] }) State.rsps =
      some [⟨.ok, [.timeout .activity], none⟩] ∧
    after (exec .tick { s0 with lineQ := [true], burstQ := [.bytes []] }) State.rsps =
      some [⟨.ok, [.timeout .length], none⟩] ∧
    after (exec .tick { s0 with lineQ := [true], burstQ := [.bytes [0x03#8, 0x01#8, 0x02#8, 0x03#8, 0xF6#8, 0xFF#8]] })
      State.rsps = some [⟨.ok, [.lengthError 0x03#8], none⟩] := by decide

/-- R73 and R190, the codes of one response: V7.7 and P4 step 1. -/
theorem test_response_codes :
    after (exec .strike { s0 with mode := .disarmed }) (fun t => t.rsps.map (fun r => (r.statusCode, r.eventCodes))) =
      some [(2#3, [8])] ∧
    after (exec .tick { s0 with lineQ := [true], burstQ := [.bytes []] })
      (fun t => t.rsps.map (fun r => (r.statusCode, r.eventCodes))) = some [(0#3, [3])] := by decide

/-! ### One step of each message kind (6.3) -/

/-- A state whose TICK is about to dispatch. -/
def atFrame : State := { s0 with ctl := .dispatch ⟨0x06#8, 0#16, 0#16, 0#8, 0#8, []⟩ }

/-- The frame of 6.3 as a message, and what is forwarded of it. -/
def msg : Msg := ⟨0x0000#16, 0x0010#16, 0x21#8, []⟩
def forwarded (type : Byte) (reserved : Bool) : Forwarded := ⟨0x0000#16, 0x0010#16, type, 0x21#8, 0x00#8, [], reserved⟩

theorem test_msgRequestId : after (exec (.msgRequestId msg) atFrame) (fun t => (t.rsps, t.lastSeq, t.mode)) =
    some ([⟨.ok, [], some (forwarded 0x00#8 false)⟩], 0x21#8, .sleep) := by decide
theorem test_msgResponseId : after (exec (.msgResponseId msg) atFrame) (fun t => (t.rsps, t.lastSeq, t.mode)) =
    some ([⟨.ok, [], some (forwarded 0x01#8 false)⟩], 0x21#8, .sleep) := by decide
theorem test_msgStop : after (exec (.msgStop msg) atFrame) (fun t => (t.rsps, t.lastSeq, t.mode)) =
    some ([⟨.ok, [], some (forwarded 0x03#8 false)⟩], 0x21#8, .sleep) := by decide
theorem test_msgConfigure : after (exec (.msgConfigure msg) atFrame) (fun t => (t.rsps, t.lastSeq, t.mode)) =
    some ([⟨.ok, [], some (forwarded 0x04#8 false)⟩], 0x21#8, .sleep) := by decide
theorem test_msgStart : after (exec (.msgStart msg) atFrame) (fun t => (t.rsps, t.lastSeq, t.mode)) =
    some ([⟨.ok, [], some (forwarded 0x05#8 false)⟩], 0x21#8, .sleep) := by decide
theorem test_msgStrike : after (exec (.msgStrike msg) atFrame) (fun t => (t.rsps, t.lastSeq, t.mode)) =
    some ([⟨.ok, [], some (forwarded 0x06#8 false)⟩], 0x21#8, .sleep) := by decide
theorem test_msgError : after (exec (.msgError msg) atFrame) (fun t => (t.rsps, t.lastSeq, t.mode)) =
    some ([⟨.ok, [], some (forwarded 0x07#8 false)⟩], 0x21#8, .sleep) := by decide
theorem test_msgDefused : after (exec (.msgDefused msg) atFrame) (fun t => (t.rsps, t.lastSeq, t.mode)) =
    some ([⟨.ok, [], some (forwarded 0x08#8 false)⟩], 0x21#8, .sleep) := by decide
theorem test_msgNeedy : after (exec (.msgNeedy msg) atFrame) (fun t => (t.rsps, t.lastSeq, t.mode)) =
    some ([⟨.ok, [], some (forwarded 0x09#8 false)⟩], 0x21#8, .sleep) := by decide
theorem test_msgReadStatus : after (exec (.msgReadStatus msg) atFrame) (fun t => (t.rsps, t.lastSeq, t.mode)) =
    some ([⟨.ok, [], some (forwarded 0x0A#8 false)⟩], 0x21#8, .sleep) := by decide
theorem test_msgStatus : after (exec (.msgStatus msg) atFrame) (fun t => (t.rsps, t.lastSeq, t.mode)) =
    some ([⟨.ok, [], some (forwarded 0x0B#8 false)⟩], 0x21#8, .sleep) := by decide
theorem test_msgSound : after (exec (.msgSound msg) atFrame) (fun t => (t.rsps, t.lastSeq, t.mode)) =
    some ([⟨.ok, [], some (forwarded 0x0C#8 false)⟩], 0x21#8, .sleep) := by decide
/-- 6.3: nothing pending. -/
theorem test_msgAck_ignored : after (exec (.msgAck msg) atFrame) (fun t => (t.rsps, t.lastSeq)) =
    some ([⟨.ok, [.ackIgnored 0x21#8], none⟩], 0x21#8) := by decide
/-- P3 step 9, up to the arbiter: the backlog's head is promoted with 0xFF + 1. -/
theorem test_msgAck_promotes :
    after (exec (.msgAck ⟨0x0000#16, 0x0010#16, 0xFF#8, []⟩)
        { atFrame with pend := some (pending 0x06#8 0xFF#8), lastSeq := 0xFF#8, bq := [⟨0#16, 0x06#8, none0⟩] })
      (fun t => (t.events, t.bq, t.pend, t.txbuf)) =
    some ([.acked 0xFF#8], [], some (pending 0x06#8 0x00#8),
      [0x06#8, 0x10#8, 0x00#8, 0x00#8, 0x00#8, 0x06#8, 0x00#8, 0xE3#8, 0xFF#8]) := by decide
theorem test_reserved : after (step (s0.withFetchWord 56 (header 13))) State.rsps =
    some [⟨.ok, [], some (forwarded 0x0D#8 true)⟩] := by decide
/-- 6.1: an illegal word at the step. -/
theorem test_illegal_word : after (step { s0 with cmdQ := [0x24#8] }) (fun t => (t.rsps, t.cmdQ)) =
    some ([⟨.illegal, [.illegalCmd 0x24#8], none⟩], []) := by decide

/-! ### Witnesses: for each obligation with hypotheses, a state and operands that meet them -/

/-- The ACK frame of V3.1 and its packet. -/
def ackFrame : List Byte := [0x06#8, 0x00#8, 0x00#8, 0x10#8, 0x00#8, 0x02#8, 0x01#8, 0xE6#8, 0xFF#8]
def ackPacket : Packet := ⟨0x06#8, 0x0000#16, 0x0010#16, 0x02#8, 0x01#8, []⟩

/-- Idle, with a packet pending. -/
def waiting : State := { s0 with pend := some (pending 0x06#8 0x01#8), lastSeq := 0x01#8, pendNextRetry := 110 }

/-- Inside SEND_GATED, with a busy sample, a busy drain and a burst to come. -/
def sending : State :=
  { waiting with
    ctl := .arbSample (.request .strike)
    txbuf := frameBytes 0x0010#16 0x0000#16 0x06#8 0x01#8 []
    lineQ := [true, true, false]
    burstQ := [.bytes ackFrame]
    drawQ := [3] }

theorem witness_ReorderingInvisibleToChecksum : [0x06#8, 0x10#8].Perm [0x10#8, 0x06#8] := by decide
theorem witness_SingleByteCorruptionDetected :
    1 ≤ 1 ∧ 1 < (encodeFrame 0x0010#16 0#16 0x06#8 0x03#8 none0).length ∧
      0x11#8 ≠ byteAt (encodeFrame 0x0010#16 0#16 0x06#8 0x03#8 none0) 1 := by decide
/-- The last offset, checksum_hi. -/
theorem witness_SingleByteCorruptionDetected_last :
    8 < (encodeFrame 0x0010#16 0#16 0x06#8 0x03#8 none0).length ∧
      0x7F#8 ≠ byteAt (encodeFrame 0x0010#16 0#16 0x06#8 0x03#8 none0) 8 := by decide
theorem witness_DecodeIgnoresSurplusBytes : (0x00#8).toNat + 2 ≤ [0xFF#8, 0xFF#8].length := by decide
/-- One witness per clause, at its boundary: one byte short; V3.3; V3.15 (length 5); V3.1 (length 6). -/
theorem witness_DecodeJudgesInOrder :
    [0x00#8, 0xFF#8].length < (0x00#8).toNat + 3 ∧
    ((0x06#8).toNat + 3 ≤ 9 ∧ ((chkSum [0x06#8, 0x00#8, 0x00#8, 0x10#8, 0x00#8, 0x02#8, 0x01#8]).toNat + 0xFFE7) % 65536 ≠ 0xFFFF) ∧
    ((0x05#8).toNat + 3 ≤ 8 ∧ ((chkSum [0x05#8, 0x00#8, 0x00#8, 0x10#8, 0x00#8, 0x02#8]).toNat + 0xFFE8) % 65536 = 0xFFFF ∧
      (0x05#8).toNat < 6) ∧
    ((0x06#8).toNat + 3 ≤ 9 ∧ ((chkSum [0x06#8, 0x00#8, 0x00#8, 0x10#8, 0x00#8, 0x02#8, 0x01#8]).toNat + 0xFFE6) % 65536 = 0xFFFF ∧
      6 ≤ (0x06#8).toNat) := by decide
theorem witness_InstructionRoundTrip : (Instr.msgSound longest).wf = true ∧ Instr.tick.wf = true := by decide
/-- Both ends of the assigned kinds, and the first reserved one. -/
theorem witness_TypeByteAloneSelectsTheKind :
    (tablePacket (header 0)).type = MsgKind.requestId.toByte ∧ (tablePacket (header 12)).type = MsgKind.sound.toByte ∧
      13 ≤ (tablePacket (header 13)).type.toNat := by decide
theorem witness_ResetInputForcesResetState : { sending with rst := some 0 }.rst = some 0 := rfl
theorem witness_StepRunsDecodedInstruction :
    ({ s0 with cmdQ := [0x03#8] }.ready ∧ { s0 with cmdQ := [0x03#8] }.cmdQ = [0x03#8] ∧
      decode .command [0x03#8] = .ok .strike) ∧
    ({ s0 with ctl := .dispatch ackPacket }.ctl = .dispatch ackPacket ∧ s0.rst = none ∧
      decodePacket ackPacket = .ok (.msgAck ⟨0x0000#16, 0x0010#16, 0x01#8, []⟩)) := by decide
theorem witness_IllegalWordAnsweredWithoutEffect :
    { s0 with cmdQ := [0x05#8] }.ready ∧
      0x05#8 ∉ [0x00#8, 0x01#8, 0x02#8, 0x03#8, 0x04#8, 0x0C#8, 0x14#8, 0x1C#8] := by decide
theorem witness_ReservedKindForwardedFlagged :
    { s0 with ctl := .dispatch (tablePacket (header 13)) }.ctl = .dispatch (tablePacket (header 13)) ∧
      s0.rst = none ∧ 13 ≤ (tablePacket (header 13)).type.toNat ∧ s0.pend = none ∧ waiting.pend ≠ none := by decide
theorem witness_StepElsewhereContinues :
    (s0.ready ∧ s0.cmdQ = []) ∧ (sending.rst ≠ some 0 ∧ sending.ctl ≠ .idle ∧ ∀ pkt, sending.ctl ≠ .dispatch pkt) :=
  ⟨by decide, by decide, by decide, fun _ h => nomatch h⟩
theorem witness_TickWithNothingToDo :
    { s0 with lineQ := [false] }.ready ∧ s0.pend = none ∧ { s0 with lineQ := [false] }.lineQ = [false] := by decide
/-- The last moment before the retry time. -/
theorem witness_TickBeforeRetryTime :
    { waiting with lineQ := [false], nowQ := [109] }.ready ∧ waiting.pend ≠ none ∧
      max waiting.time 109 < waiting.pendNextRetry := by decide
/-- The first moment at the retry time. -/
theorem witness_TickRetransmitsWhenDue :
    { waiting with lineQ := [false, false], nowQ := [110, 111] }.ready ∧ waiting.pend = some (pending 0x06#8 0x01#8) ∧
      waiting.pendNextRetry ≤ max waiting.time 110 := by decide
theorem witness_TickReceivesAcceptedFrame :
    { s0 with lineQ := [true], burstQ := [.bytes ackFrame] }.ready ∧ decodeFrame (s0.rxbuf ++ ackFrame) = .ok ackPacket := by
  decide
/-- Each of DECODE's four errors; nothing pending, and a packet pending. -/
theorem witness_TickDiscardsBadFrame :
    { s0 with lineQ := [true], burstQ := [.bytes []] }.ready ∧ s0.pend = none ∧
      { waiting with lineQ := [true], burstQ := [.bytes []] }.ready ∧ waiting.pend ≠ none ∧
      decodeFrame (s0.rxbuf ++ []) = .error .timeout ∧
      decodeFrame (s0.rxbuf ++ [0x06#8]) = .error (.shortRead 0x06#8 1) ∧
      decodeFrame (s0.rxbuf ++ [0x00#8, 0xFF#8, 0xFE#8]) = .error (.checksumError 0x0000#16 0xFEFF#16) ∧
      decodeFrame (s0.rxbuf ++ [0x00#8, 0xFF#8, 0xFF#8]) = .error (.lengthError 0x00#8) := by decide
theorem witness_TickTimesOutOnEndlessActivity :
    { s0 with lineQ := [true], burstQ := [.timedOut] }.ready ∧ s0.pend = none ∧
      { waiting with lineQ := [true], burstQ := [.timedOut] }.ready ∧ waiting.pend ≠ none := by decide
/-- The last moment before the retry time, and the first at it. -/
theorem witness_RetryCheckComparesOneSample :
    { waiting with ctl := .timeSample .retryTest, nowQ := [109] }.ctl = .timeSample .retryTest ∧ waiting.rst = none ∧
      waiting.pend = some (pending 0x06#8 0x01#8) ∧ max waiting.time 109 < waiting.pendNextRetry ∧
      waiting.pendNextRetry ≤ max waiting.time 110 := by decide
theorem witness_PromotedPacketIsArmed :
    { waiting with ctl := .timeSample (.arm .promoted), nowQ := [9] }.ctl = .timeSample (.arm .promoted) ∧
      waiting.rst = none ∧ waiting.pend ≠ none := by decide
theorem witness_UnableToArmSendsError :
    { s0 with mode := .disarmed, lineQ := [false], nowQ := [9] }.ready ∧ s0.pend = none := by decide
theorem witness_StrikeSendsStrike :
    { s0 with lastSeq := 0xFF#8, lineQ := [false], nowQ := [0] }.ready ∧ s0.mode ≠ .disarmed ∧ s0.pend = none := by decide
theorem witness_DisarmedSendsDefused :
    { s0 with lineQ := [false], nowQ := [1] }.ready ∧ s0.mode ≠ .disarmed ∧ s0.pend = none := by decide
theorem witness_RequestsJoinTheBacklog :
    waiting.ready ∧ waiting.pend ≠ none ∧ waiting.bq.length < waiting.cfg.backlogDepth ∧ waiting.mode ≠ .disarmed := by
  decide
theorem witness_FullBacklogRefusesRequests :
    { waiting with bq := [⟨0#16, 0x06#8, none0⟩] }.ready ∧ waiting.pend ≠ none ∧
      { waiting with bq := [⟨0#16, 0x06#8, none0⟩] }.bq.length = waiting.cfg.backlogDepth ∧ waiting.mode ≠ .disarmed := by
  decide
theorem witness_TerminalModeRejects : { s0 with mode := .disarmed }.ready ∧ { s0 with mode := .disarmed }.mode = .disarmed := by
  decide
theorem witness_SetModeAcceptsExactlyTwoEdges :
    (s0.ready ∧ s0.mode = .sleep ∧ { s0 with mode := .ready }.ready ∧ { s0 with mode := .ready }.mode = .ready) ∧
      ¬((s0.mode = .sleep ∧ Mode.armed = .ready) ∨ (s0.mode = .ready ∧ Mode.armed = .armed)) := by decide
theorem witness_IdleSampleTransmitsWholeFrame :
    { sending with lineQ := [false] }.ctl = .arbSample (.request .strike) ∧ sending.rst = none ∧ sending.txbuf ≠ [] := by
  decide
theorem witness_PollIsDecodeOfTheBurst :
    { sending with ctl := .rxWaitEnd (.drain .retry) }.ctl = .rxWaitEnd (.drain .retry) ∧ sending.rst = none ∧
      sending.burstQ = [.bytes ackFrame] ∧ decodeFrame (sending.rxbuf ++ ackFrame) = .ok ackPacket ∧
      decodeFrame (sending.rxbuf ++ []) = .error .timeout ∧
      { sending with ctl := .rxWaitEnd (.drain .retry), burstQ := [.timedOut] }.burstQ = [.timedOut] := by decide
theorem witness_BusySampleIdleDrainBacksOff :
    { sending with lineQ := [true, false] }.ctl = .arbSample (.request .strike) ∧ sending.rst = none ∧
      sending.drawQ = [3] ∧ sending.cfg.backoffMin ≤ 3 ∧ 3 ≤ sending.cfg.backoffMax := by decide
theorem witness_DrainedFrameIsDropped :
    sending.ctl = .arbSample (.request .strike) ∧ sending.rst = none ∧ sending.lineQ = [true, true, false] ∧
      sending.burstQ = [.bytes ackFrame] ∧ sending.drawQ = [3] ∧
      decodeFrame (sending.rxbuf ++ ackFrame) = .ok ackPacket := by decide
theorem witness_StuckBusyLineNeverTransmits :
    { s0 with lineQ := [true, true] }.ready ∧ s0.pend = none ∧ s0.mode ≠ .disarmed ∧
      (∀ b ∈ { s0 with lineQ := [true, true] }.lineQ, b = true) ∧
      ∃ t, exec .strike { s0 with lineQ := [true, true] } = .next t :=
  ⟨by decide, by decide, by decide, by decide, _, rfl⟩
theorem witness_ForwardedKindsAnswerTick : atFrame.dispatching ∧ MsgKind.sound ≠ .ack ∧ atFrame.pend = none :=
  ⟨⟨⟨_, rfl⟩, rfl⟩, by decide, rfl⟩
theorem witness_ForwardedKindsReachRetryCheck :
    { waiting with ctl := .dispatch ackPacket }.dispatching ∧ MsgKind.requestId ≠ .ack ∧ waiting.pend ≠ none :=
  ⟨⟨⟨_, rfl⟩, rfl⟩, by decide, by decide⟩
theorem witness_MatchingAckClearsSlot :
    { waiting with ctl := .dispatch ackPacket }.dispatching ∧ waiting.fwd = none ∧
      waiting.pend = some (pending 0x06#8 0x01#8) ∧ (pending 0x06#8 0x01#8).seq = 0x01#8 ∧ waiting.bq = [] :=
  ⟨⟨⟨_, rfl⟩, rfl⟩, rfl, rfl, rfl, rfl⟩
theorem witness_MatchingAckPromotesBacklogHead :
    { waiting with ctl := .dispatch ackPacket, bq := [⟨0#16, 0x08#8, none0⟩] }.dispatching ∧
      waiting.pend = some (pending 0x06#8 0x01#8) ∧ (pending 0x06#8 0x01#8).seq = 0x01#8 :=
  ⟨⟨⟨_, rfl⟩, rfl⟩, rfl, rfl⟩
/-- Both clauses: nothing pending, and another number pending. -/
theorem witness_OtherAckIgnored :
    (atFrame.dispatching ∧ atFrame.fwd = none ∧ (∀ q, atFrame.pend = some q → q.seq ≠ 0x01#8) ∧ atFrame.pend = none) ∧
    ({ waiting with ctl := .dispatch ackPacket }.dispatching ∧ waiting.fwd = none ∧ (∀ q, waiting.pend = some q → q.seq ≠ 0x02#8) ∧
      waiting.pend ≠ none) :=
  ⟨⟨⟨⟨_, rfl⟩, rfl⟩, rfl, fun _ h => (nomatch h), rfl⟩,
    ⟨⟨_, rfl⟩, rfl⟩, rfl, fun q h => by cases (h : some (pending 0x06#8 0x01#8) = some q); decide, by decide⟩
theorem witness_OnlySequenceOfAckCounts :
    ackPacket.type = 0x02#8 ∧ { ackPacket with dest := 0x0020#16 }.type = 0x02#8 ∧
      ackPacket.seq = { ackPacket with dest := 0x0020#16 }.seq ∧ ackPacket ≠ { ackPacket with dest := 0x0020#16 } := by
  decide

/-- The invariant holds in the middle of a transmission that is arbitrated for. -/
theorem sending_inv : Inv sending where
  addr_fixed := rfl
  backlog_pending h := absurd rfl h
  backlog_bound := by decide
  intent_iff := rfl
  idle_clear h := nomatch h
  sending_frame _ := rfl
  sampling_pending _ h := nomatch h
  starting_seq _ := rfl
  request_forwards_nothing _ _ := rfl
  rx_index _ _ _ h := nomatch h
  tx_index _ _ h := nomatch h
  before_dispatch_clear h := nomatch h
  dispatched_accepted _ h := nomatch h
  running_events _ h := nomatch h

theorem witness_EveryStepKeepsInvariant : Inv sending ∧ ∃ t, step sending = .next t := ⟨sending_inv, _, rfl⟩
theorem witness_DisarmedIsTerminal :
    { s0 with mode := .disarmed, cmdQ := [0x0C#8] }.mode = .disarmed ∧ s0.rst ≠ some 0 ∧
      ∃ t, step { s0 with mode := .disarmed, cmdQ := [0x0C#8] } = .next t := ⟨rfl, by decide, _, rfl⟩
/-- Each edge taken (DISARMED in the step of its word, and in a later one), and a frame dispatched. -/
theorem witness_ModeMovesOnlyAlongEdges :
    (s0.rst ≠ some 0 ∧ ∃ t, step { s0 with cmdQ := [0x0C#8] } = .next t ∧ t.mode ≠ s0.mode) ∧
    (∃ t, step { s0 with mode := .ready, cmdQ := [0x14#8] } = .next t ∧ t.mode = .armed) ∧
    (∃ t, step { waiting with cmdQ := [0x02#8] } = .next t ∧ t.mode = .disarmed) ∧
    (∃ t, step { waiting with ctl := .timeSample (.arm (.request .disarmed)), nowQ := [9] } = .next t ∧
      t.mode = .disarmed) ∧
    (∃ pkt, atFrame.ctl = .dispatch pkt) ∧ ∃ t, step atFrame = .next t :=
  ⟨⟨by decide, _, rfl, by decide⟩, ⟨_, rfl, rfl⟩, ⟨_, rfl, rfl⟩, ⟨_, rfl, rfl⟩, ⟨_, rfl⟩, _, rfl⟩
/-- A step that keeps the packet, and one that ends it. -/
theorem witness_OnlyMatchingAckEndsPending :
    waiting.pend = some (pending 0x06#8 0x01#8) ∧ waiting.rst ≠ some 0 ∧ (∃ t, step waiting = .next t) ∧
      ∃ t, step { waiting with ctl := .dispatch ackPacket } = .next t ∧ t.pend = none :=
  ⟨rfl, by decide, ⟨_, rfl⟩, _, rfl, rfl⟩
/-- LAST_SEQ written by a dispatch, and by an allocation. -/
theorem witness_LastSeqHasTwoWriters :
    s0.rst ≠ some 0 ∧
    (∃ t, step { s0 with ctl := .dispatch ackPacket } = .next t ∧ t.lastSeq ≠ s0.lastSeq) ∧
    ∃ t, step { s0 with cmdQ := [0x03#8] } = .next t ∧ t.lastSeq ≠ s0.lastSeq :=
  ⟨by decide, ⟨_, rfl, by decide⟩, _, rfl, by decide⟩
/-- A request appended, and the head removed. -/
theorem witness_BacklogIsFirstInFirstOut :
    waiting.rst ≠ some 0 ∧ (∃ t, step { waiting with cmdQ := [0x03#8] } = .next t ∧ t.bq ≠ waiting.bq) ∧
      ∃ t, step { waiting with bq := [⟨0#16, 0x08#8, none0⟩], ctl := .dispatch ackPacket } = .next t ∧ t.bq = [] :=
  ⟨by decide, ⟨_, rfl, by decide⟩, _, rfl, rfl⟩
/-- A step with one answer that carries a packet, from a state that meets the invariant. -/
theorem atFrame_inv : Inv atFrame where
  addr_fixed := rfl
  backlog_pending h := absurd rfl h
  backlog_bound := by decide
  intent_iff := rfl
  idle_clear h := nomatch h
  sending_frame h := absurd rfl h
  sampling_pending _ h := nomatch h
  starting_seq h := nomatch h
  request_forwards_nothing _ h := nomatch h
  rx_index _ _ _ h := nomatch h
  tx_index _ _ h := nomatch h
  before_dispatch_clear _ := ⟨rfl, rfl⟩
  dispatched_accepted _ h := by cases h; decide
  running_events _ h := nomatch h

theorem witness_AtMostOneResponsePerStep :
    Inv atFrame ∧ ∃ t r, step atFrame = .next t ∧ t.rsps = [r] ∧ r.fwd ≠ none :=
  ⟨atFrame_inv, _, _, rfl, rfl, by decide⟩
theorem witness_TimeAdvancesParametersStay : ∃ t, step { sending with lineQ := [false], nowQ := [9] } = .next t :=
  ⟨_, rfl⟩
theorem witness_CommandsRunUntilTheyRest : Instr.strike.port = .command ∧ ∃ t, exec .strike s0 = .next t :=
  ⟨rfl, _, rfl⟩
/-- Inside a TICK, with another content of TXBUF; inside SEND_GATED, with the same. -/
theorem witness_WorkingRegistersNeverInfluence :
    (atFrame.ctl.sender ≠ none → [0xFF#8] = atFrame.txbuf) ∧ [0xFF#8] ≠ atFrame.txbuf ∧ (∃ t, step atFrame = .next t) ∧
      sending.ctl.sender ≠ none ∧ ∃ t, step sending = .next t :=
  ⟨fun h => absurd rfl h, by decide, ⟨_, rfl⟩, by decide, _, rfl⟩
/-- Inside a TICK with nothing pending, and while START_PENDING is not finished, with another PEND_NEXT_RETRY. -/
theorem witness_RetryTimeUnreadWhileEmpty :
    ((atFrame.pend ≠ none → atFrame.ctl.starting = false → 7 = atFrame.pendNextRetry) ∧ 7 ≠ atFrame.pendNextRetry ∧
      ∃ t, step atFrame = .next t) ∧
    ((sending.pend ≠ none → sending.ctl.starting = false → 7 = sending.pendNextRetry) ∧ 7 ≠ sending.pendNextRetry ∧
      ∃ t, step sending = .next t) :=
  ⟨⟨fun h => absurd rfl h, by decide, _, rfl⟩, fun _ h => (nomatch h), by decide, _, rfl⟩
/-- A request, a retransmission in a TICK that forwards a packet, and DISARMED. -/
theorem witness_RequestOrRetryAnswersOnceArmed :
    { waiting with ctl := .timeSample (.arm (.request .strike)), nowQ := [9] }.ctl = .timeSample (.arm (.request .strike)) ∧
      { waiting with ctl := .timeSample (.arm .retry), nowQ := [9], fwd := some (forwarded 0x03#8 false) }.ctl =
        .timeSample (.arm .retry) ∧
      { waiting with ctl := .timeSample (.arm (.request .disarmed)), nowQ := [9] }.ctl =
        .timeSample (.arm (.request .disarmed)) ∧ waiting.rst = none := by decide
/-- P2 step 1, a busy line. -/
theorem witness_RequestsEnterSendGated :
    { s0 with lineQ := [true, true] }.ready ∧ s0.pend = none ∧ s0.mode ≠ .disarmed := by decide
/-- Each of the five answers. -/
theorem witness_ResponseCodesFollowTheTables :
    Inv atFrame ∧
    (∃ t r, step atFrame = .next t ∧ t.rsps = [r] ∧ r.statusCode = 0#3) ∧
    (∃ t r, step { waiting with bq := [⟨0#16, 0x06#8, none0⟩], cmdQ := [0x03#8] } = .next t ∧ t.rsps = [r] ∧
      r.statusCode = 1#3) ∧
    (∃ t r, step { s0 with mode := .disarmed, cmdQ := [0x03#8] } = .next t ∧ t.rsps = [r] ∧ r.statusCode = 2#3) ∧
    (∃ t r, step { s0 with cmdQ := [0x14#8] } = .next t ∧ t.rsps = [r] ∧ r.statusCode = 3#3) ∧
    ∃ t r, step { s0 with cmdQ := [0x05#8] } = .next t ∧ t.rsps = [r] ∧ r.statusCode = 4#3 :=
  ⟨atFrame_inv, ⟨_, _, rfl, rfl, rfl⟩, ⟨_, _, rfl, rfl, rfl⟩, ⟨_, _, rfl, rfl, rfl⟩, ⟨_, _, rfl, rfl, rfl⟩, _, _, rfl, rfl,
    rfl⟩

end Sys2Proof.Tests
end

section
/-! SUPPORT. The statement of 00_scope.md: the clock and the parameters over one step. -/

namespace Sys2Proof.Machine

/-! ### What an instruction runs at its fetch point -/

theorem exec_tick_eq (s : State) : exec .tick s = atIdle s fun s => settle (goto (.rxSample .tick) s) := rfl

theorem exec_unableToArm_eq (s : State) :
    exec .unableToArm s = atIdle s fun s => settle (queueSend .unableToArm (toController .error) s) := rfl

theorem exec_disarmed_eq (s : State) :
    exec .disarmed s = atIdle s fun s =>
      if s.terminal then respond .rejected (emit (.terminalReject .disarmed) s)
      else settle (queueSend .disarmed (toController .defused) s) := rfl

theorem exec_strike_eq (s : State) :
    exec .strike s = atIdle s fun s =>
      if s.terminal then respond .rejected (emit (.terminalReject .strike) s)
      else settle (queueSend .strike (toController .strike) s) := rfl

theorem exec_setMode_eq (m : Mode) (s : State) :
    exec (.setMode m) s = atIdle s fun s =>
      if legalEdge s.mode m then respond .ok { s with mode := m }
      else respond .badEdge (emit (.illegalModeEdge s.mode m) s) := rfl

theorem exec_ack_eq (m : Msg) (s : State) :
    exec (Instr.ofKind .ack m) s = atDispatch s fun s => ackHandle m.seq (observeSeq m.seq s) := rfl

theorem exec_ofKind_eq_of_ne_ack {k : MsgKind} (hk : k ≠ .ack) (m : Msg) (s : State) :
    exec (Instr.ofKind k m) s = atDispatch s (forward k.toByte m) := by
  cases k
  case ack => contradiction
  all_goals rfl

/-- RX_DISPATCH consumes an ACK and forwards every other kind (44_node_session.md R164). -/
theorem exec_ofKind_cases {k : MsgKind} {m : Msg} {s t : State} (h : exec (Instr.ofKind k m) s = .next t) :
    (k = .ack ∧ t = ackHandle m.seq (observeSeq m.seq s)) ∨ (k ≠ .ack ∧ t = forward k.toByte m s) := by
  by_cases hk : k = .ack
  · subst hk
    rw [exec_ack_eq] at h
    exact .inl ⟨rfl, (atDispatch_next h).2⟩
  · rw [exec_ofKind_eq_of_ne_ack hk] at h
    exact .inr ⟨hk, (atDispatch_next h).2⟩

/-! ### The clock goes on and the parameters stay -/

/-- From `s` to `t` the clock has not gone back and the parameters are the same (00_scope.md R6, 10_state.md R22). -/
structure ClockOn (s t : State) : Prop where
  time : s.time ≤ t.time
  cfg : t.cfg = s.cfg

/-- Both parts at once for an operation that writes neither field. -/
theorem ClockOn.of_eq {s t : State} (time : t.time = s.time) (cfg : t.cfg = s.cfg) : ClockOn s t :=
  ⟨time.ge, cfg⟩

theorem ClockOn.after {s t u : State} (g : ClockOn t u) (h : ClockOn s t) : ClockOn s u :=
  ⟨h.time.trans g.time, g.cfg.trans h.cfg⟩

theorem Stays.clockOn {s t : State} (h : Stays s t) : ClockOn s t := ⟨h.time, h.cfg⟩

theorem settle_clockOn {s t : State} (h : ClockOn s t) : ClockOn s (settle t) := (settle_stays t).clockOn.after h

theorem startPending_clockOn (k : Sender) (r : Request) (s : State) : ClockOn s (startPending k r s) := .of_eq rfl rfl

theorem queueSend_clockOn (op : SendCmd) (r : Request) (s : State) : ClockOn s (queueSend op r s) := by
  obtain ⟨-, h⟩ | ⟨-, -, h⟩ | ⟨-, -, h⟩ := queueSend_cases op r s <;> rw [h]
  · exact startPending_clockOn _ _ _
  · exact (requestDone_stays _ _).clockOn.after (.of_eq rfl rfl)
  · exact .of_eq rfl rfl

theorem forward_clockOn (type : Byte) (m : Msg) (s : State) : ClockOn s (forward type m s) :=
  (retryCheck_stays _).clockOn.after (.of_eq rfl rfl)

theorem ackHandle_clockOn (seq : Byte) (s : State) : ClockOn s (ackHandle seq s) := by
  obtain ⟨-, h⟩ | ⟨p, -, -, -, h⟩ | ⟨p, r, rest, -, -, -, h⟩ := ackHandle_cases seq s <;> rw [h]
  · exact (retryCheck_stays _).clockOn.after (.of_eq rfl rfl)
  · exact (retryCheck_stays _).clockOn.after (.of_eq rfl rfl)
  · exact (startPending_clockOn _ _ _).after (.of_eq rfl rfl)

/-- A command that is run from its acceptance on keeps the clock going, if what it runs does. -/
theorem atIdle_clockOn {s t : State} {run : State → State} (h : atIdle s run = .next t)
    (hrun : ∀ u, ClockOn u (run u)) : ClockOn s t := by
  obtain ⟨-, rfl⟩ := atIdle_next h
  exact (hrun (accept s)).after (.of_eq rfl rfl)

/-- A sending command with the terminal-state guard of 44_node_session.md R157 and R158. -/
theorem guardedSend_clockOn (op : SendCmd) (r : Request) (s : State) :
    ClockOn s (if s.terminal then respond .rejected (emit (.terminalReject op) s) else settle (queueSend op r s)) := by
  split
  · exact .of_eq rfl rfl
  · exact settle_clockOn (queueSend_clockOn _ _ _)

/-- SET_MODE on an edge it accepts and on any other (44_node_session.md R160). -/
theorem setMode_clockOn (m : Mode) (s : State) :
    ClockOn s (if legalEdge s.mode m then respond .ok { s with mode := m }
      else respond .badEdge (emit (.illegalModeEdge s.mode m) s)) := by
  split
  · exact .of_eq rfl rfl
  · exact .of_eq rfl rfl

theorem exec_command_clockOn {w : Byte} {i : Instr} {s t : State} (hd : decodeCommand w = .ok i)
    (h : exec i s = .next t) : ClockOn s t := by
  obtain rfl | rfl | rfl | rfl | ⟨m, rfl⟩ := decodeCommand_cases hd
  · rw [exec_tick_eq] at h
    exact atIdle_clockOn h fun u => settle_clockOn (.of_eq rfl rfl)
  · rw [exec_unableToArm_eq] at h
    exact atIdle_clockOn h fun u => settle_clockOn (queueSend_clockOn _ _ _)
  · rw [exec_disarmed_eq] at h
    exact atIdle_clockOn h (guardedSend_clockOn .disarmed _)
  · rw [exec_strike_eq] at h
    exact atIdle_clockOn h (guardedSend_clockOn .strike _)
  · rw [exec_setMode_eq] at h
    exact atIdle_clockOn h (setMode_clockOn m)

theorem exec_message_clockOn {pkt : Packet} {i : Instr} {s t : State} (hd : decodePacket pkt = .ok i)
    (h : exec i s = .next t) : ClockOn s t := by
  obtain ⟨k, -, rfl⟩ := decodePacket_cases hd
  obtain ⟨-, rfl⟩ | ⟨-, rfl⟩ := exec_ofKind_cases h
  · exact (ackHandle_clockOn _ _).after (.of_eq rfl rfl)
  · exact forward_clockOn _ _ _

theorem step_clockOn {s t : State} (h : step s = .next t) : ClockOn s t := by
  by_cases hr : s.rst = some 0
  · cases (step_reset hr).symm.trans h
    exact .of_eq (hardReset_time s) (hardReset_cfg s)
  obtain ⟨-, -, rfl⟩ | ⟨w, rest, i, -, -, hd, he⟩ | ⟨w, rest, -, -, rfl⟩ | ⟨pkt, i, -, hd, he⟩ | ⟨pkt, -, rfl⟩ |
    ⟨-, -, rfl⟩ := step_cases hr h
  · exact .of_eq rfl rfl
  · exact (exec_command_clockOn hd he).after (.of_eq rfl rfl)
  · exact .of_eq rfl rfl
  · exact exec_message_clockOn hd he
  · exact forward_clockOn _ _ _
  · exact (settle_stays s).clockOn

/-- Settles O54: the clock is written at a time sample only, by a maximum with its last answer, and no operation writes the
parameters; the reset input keeps both. -/
theorem timeAdvancesParametersStay : Obligations.TimeAdvancesParametersStay := fun _ _ h =>
  have on := step_clockOn h
  ⟨on.time, on.cfg⟩

end Sys2Proof.Machine
end

section
/-! SUPPORT. The step at its fetch points, and the state after reset (10_state.md R30, R31). -/

namespace Sys2Proof.Machine

/-! ### One equation per branch of the step -/

theorem step_idle {s : State} (hr : s.rst ≠ some 0) (hc : s.ctl = .idle) (hq : s.cmdQ = []) : step s = .next s := by
  unfold step
  split
  · contradiction
  · simp only [hc, hq]

theorem step_command {s : State} {w : Byte} {rest : List Byte} {i : Instr} (hr : s.rst ≠ some 0) (hc : s.ctl = .idle)
    (hq : s.cmdQ = w :: rest) (hd : decodeCommand w = .ok i) : step s = exec i { s with cmdQ := rest } := by
  unfold step
  split
  · contradiction
  · simp only [hc, hq, hd]

theorem step_illegal {s : State} {w : Byte} {rest : List Byte} {e : DecodeError} (hr : s.rst ≠ some 0)
    (hc : s.ctl = .idle) (hq : s.cmdQ = w :: rest) (hd : decodeCommand w = .error e) :
    step s = .next (rejectWord w { s with cmdQ := rest }) := by
  unfold step
  split
  · contradiction
  · simp only [hc, hq, hd]

theorem step_message {s : State} {pkt : Packet} {i : Instr} (hr : s.rst ≠ some 0) (hc : s.ctl = .dispatch pkt)
    (hd : decodePacket pkt = .ok i) : step s = exec i s := by
  unfold step
  split
  · contradiction
  · simp only [hc, hd]

theorem step_reserved {s : State} {pkt : Packet} {e : DecodeError} (hr : s.rst ≠ some 0) (hc : s.ctl = .dispatch pkt)
    (hd : decodePacket pkt = .error e) : step s = .next (forwardReserved pkt s) := by
  unfold step
  split
  · contradiction
  · simp only [hc, hd]

theorem step_running {s : State} (hr : s.rst ≠ some 0) (hi : s.ctl ≠ .idle) (hd : ∀ pkt, s.ctl ≠ .dispatch pkt) :
    step s = .next (settle s) := by
  unfold step
  split
  · contradiction
  split
  · contradiction
  · next pkt hc => exact absurd hc (hd pkt)
  · rfl

/-- Settles O13: every field that R31 states is written out in `State.reset`. -/
theorem resetStateAsStated : Obligations.ResetStateAsStated :=
  ⟨rfl, rfl, rfl, rfl, rfl, rfl, rfl, rfl, rfl⟩

/-- Settles O15: the two fetch points of the step, the reset input being not asserted at either. -/
theorem stepRunsDecodedInstruction : Obligations.StepRunsDecodedInstruction := by
  constructor
  · rintro s w rest i ⟨hc, hr⟩ hq hd
    exact step_command (by simp [hr]) hc hq hd
  · intro s pkt i hc hr hd
    exact step_message (by simp [hr]) hc hd

end Sys2Proof.Machine
end

section
/-! SUPPORT. What a step writes to LAST_SEQ, the pending slot, the backlog and MODE (10_state.md R12 to R19), said
once. -/

namespace Sys2Proof.Machine

/-- From `s`, without reset, one step leaves LAST_SEQ, the pending slot and BQ at values of one of these forms. -/
inductive DeliveryWrite (s : State) : Byte → Option Pending → List Request → Prop where
  | nothing : DeliveryWrite s s.lastSeq s.pend s.bq
  /-- A host command with nothing pending: START_PENDING (43_delivery_manager.md R136, R137). -/
  | allocate (r : Request) (hc : s.ctl = .idle) (hp : s.pend = none) :
      DeliveryWrite s s.nextSeq (some ⟨r.dest, r.type, s.nextSeq, r.pay⟩) s.bq
  /-- A host command with a packet pending and room in the backlog (43_delivery_manager.md R136). -/
  | append (r : Request) : DeliveryWrite s s.lastSeq s.pend (s.bq ++ [r])
  /-- A received frame that ends no pending packet (44_node_session.md R164). -/
  | observe (pkt : Packet) (hc : s.ctl = .dispatch pkt) : DeliveryWrite s pkt.seq s.pend s.bq
  /-- The matching ACK with an empty backlog (43_delivery_manager.md R140). -/
  | finish (pkt : Packet) (q : Pending) (hc : s.ctl = .dispatch pkt) (ht : pkt.type = 0x02#8) (hp : s.pend = some q)
      (hq : q.seq = pkt.seq) : DeliveryWrite s pkt.seq none s.bq
  /-- The matching ACK that promotes the head of the backlog (43_delivery_manager.md R140). -/
  | promote (pkt : Packet) (q : Pending) (r : Request) (rest : List Request) (hc : s.ctl = .dispatch pkt)
      (ht : pkt.type = 0x02#8) (hp : s.pend = some q) (hq : q.seq = pkt.seq) (hb : s.bq = r :: rest) :
      DeliveryWrite s (pkt.seq + 1#8) (some ⟨r.dest, r.type, pkt.seq + 1#8, r.pay⟩) rest

/-- What one step from `s` to `t`, without reset, does to LAST_SEQ, the pending slot, BQ and MODE. -/
structure StepEffect (s t : State) : Prop where
  delivery : DeliveryWrite s t.lastSeq t.pend t.bq
  mode : t.mode = s.mode ∨ t.mode = .disarmed ∨ legalEdge s.mode t.mode = true

/-- Taking a command word writes none of the registers concerned. -/
theorem DeliveryWrite.of_taken {s : State} {rest : List Byte} {a : Byte} {p : Option Pending} {b : List Request}
    (h : DeliveryWrite (accept { s with cmdQ := rest }) a p b) : DeliveryWrite s a p b := by
  cases h with
  | nothing => exact .nothing
  | allocate r hc hp => exact .allocate r hc hp
  | append r => exact .append r
  | observe pkt hc => exact .observe pkt hc
  | finish pkt q hc ht hp hq => exact .finish pkt q hc ht hp hq
  | promote pkt q r _ hc ht hp hq hb => exact .promote pkt q r b hc ht hp hq hb

theorem StepEffect.of_taken {s t : State} {rest : List Byte} (h : StepEffect (accept { s with cmdQ := rest }) t) :
    StepEffect s t :=
  ⟨h.delivery.of_taken, h.mode⟩

theorem Stays.effect {s t : State} (h : Stays s t) : StepEffect s t := by
  refine ⟨?_, h.mode.imp_right .inl⟩
  rw [h.lastSeq, h.pend, h.bq]
  exact .nothing

/-- The wait points passed after an effect add none of their own. -/
theorem StepEffect.then_stays {s t u : State} (h : StepEffect s t) (g : Stays t u) : StepEffect s u where
  delivery := by rw [g.lastSeq, g.pend, g.bq]; exact h.delivery
  mode := by
    obtain e | e := g.mode
    · rw [e]; exact h.mode
    · exact .inr (.inl e)

theorem queueSend_effect {s : State} (hc : s.ctl = .idle) (op : SendCmd) (r : Request) :
    StepEffect s (queueSend op r s) := by
  obtain ⟨hp, h⟩ | ⟨-, -, h⟩ | ⟨-, -, h⟩ := queueSend_cases op r s <;> rw [h]
  · exact ⟨.allocate r hc hp, .inl rfl⟩
  · have appended : StepEffect s { s with bq := s.bq ++ [r] } := ⟨.append r, .inl rfl⟩
    exact appended.then_stays (requestDone_stays op _)
  · exact ⟨.nothing, .inl rfl⟩

theorem guardedSend_effect {s : State} (hc : s.ctl = .idle) (op : SendCmd) (r : Request) :
    StepEffect s (if s.terminal then respond .rejected (emit (.terminalReject op) s) else settle (queueSend op r s)) := by
  split
  · exact ⟨.nothing, .inl rfl⟩
  · exact (queueSend_effect hc op r).then_stays (settle_stays _)

theorem setMode_effect (m : Mode) (s : State) :
    StepEffect s (if legalEdge s.mode m then respond .ok { s with mode := m }
      else respond .badEdge (emit (.illegalModeEdge s.mode m) s)) := by
  split
  · next he => exact ⟨.nothing, .inr (.inr he)⟩
  · exact ⟨.nothing, .inl rfl⟩

/-- A command that is taken and run at IDLE has the effect of what it runs. -/
theorem atIdle_effect {s t : State} {rest : List Byte} {run : State → State}
    (h : atIdle { s with cmdQ := rest } run = .next t) (hrun : ∀ u : State, u.ctl = .idle → StepEffect u (run u)) :
    StepEffect s t := by
  obtain ⟨hc, rfl⟩ := atIdle_next h
  exact .of_taken (hrun (accept { s with cmdQ := rest }) hc)

theorem exec_command_effect {w : Byte} {rest : List Byte} {i : Instr} {s t : State} (hd : decodeCommand w = .ok i)
    (h : exec i { s with cmdQ := rest } = .next t) : StepEffect s t := by
  obtain rfl | rfl | rfl | rfl | ⟨m, rfl⟩ := decodeCommand_cases hd
  · rw [exec_tick_eq] at h
    exact atIdle_effect h fun u _ => ((goto_stays _ u).trans (settle_stays _)).effect
  · rw [exec_unableToArm_eq] at h
    exact atIdle_effect h fun u hc => (queueSend_effect hc _ _).then_stays (settle_stays _)
  · rw [exec_disarmed_eq] at h
    exact atIdle_effect h fun u hc => guardedSend_effect hc .disarmed _
  · rw [exec_strike_eq] at h
    exact atIdle_effect h fun u hc => guardedSend_effect hc .strike _
  · rw [exec_setMode_eq] at h
    exact atIdle_effect h fun u _ => setMode_effect m u

theorem forward_effect {s : State} {pkt : Packet} (hc : s.ctl = .dispatch pkt) (type : Byte) :
    StepEffect s (forward type pkt.toMsg s) := by
  have observed : StepEffect s (keepForward (Forwarded.of type pkt.toMsg) (observeSeq pkt.seq s)) :=
    ⟨.observe pkt hc, .inl rfl⟩
  exact observed.then_stays (retryCheck_stays _)

theorem ackHandle_effect {s : State} {pkt : Packet} (hc : s.ctl = .dispatch pkt) (ht : pkt.type = 0x02#8) :
    StepEffect s (ackHandle pkt.seq (observeSeq pkt.seq s)) := by
  obtain ⟨-, h⟩ | ⟨q, hp, hq, -, h⟩ | ⟨q, r, rest, hp, hq, hb, h⟩ :=
    ackHandle_cases pkt.seq (observeSeq pkt.seq s) <;> rw [h]
  · have observed : StepEffect s (emit (.ackIgnored pkt.seq) (observeSeq pkt.seq s)) := ⟨.observe pkt hc, .inl rfl⟩
    exact observed.then_stays (retryCheck_stays _)
  · have finished : StepEffect s (emit (.acked pkt.seq) { observeSeq pkt.seq s with pend := none }) :=
      ⟨.finish pkt q hc ht hp hq, .inl rfl⟩
    exact finished.then_stays (retryCheck_stays _)
  · exact ⟨.promote pkt q r rest hc ht hp hq hb, .inl rfl⟩

/-- Only the type byte 2 selects the kind ACK (30_encoding.md R66). -/
theorem type_of_ofByte_ack {b : Byte} (h : MsgKind.ofByte b = some .ack) : b = 0x02#8 := by
  revert b
  decide

theorem exec_message_effect {pkt : Packet} {i : Instr} {s t : State} (hc : s.ctl = .dispatch pkt)
    (hd : decodePacket pkt = .ok i) (h : exec i s = .next t) : StepEffect s t := by
  obtain ⟨k, hk, rfl⟩ := decodePacket_cases hd
  obtain ⟨rfl, rfl⟩ | ⟨-, rfl⟩ := exec_ofKind_cases h
  · exact ackHandle_effect hc (type_of_ofByte_ack hk)
  · exact forward_effect hc _

theorem step_effect {s t : State} (hr : s.rst ≠ some 0) (h : step s = .next t) : StepEffect s t := by
  obtain ⟨-, -, rfl⟩ | ⟨w, rest, i, -, -, hd, he⟩ | ⟨w, rest, -, -, rfl⟩ | ⟨pkt, i, hc, hd, he⟩ | ⟨pkt, hc, rfl⟩ |
    ⟨-, -, rfl⟩ := step_cases hr h
  · exact (Stays.refl _).effect
  · exact exec_command_effect hd he
  · exact ⟨.nothing, .inl rfl⟩
  · exact exec_message_effect hc hd he
  · exact forward_effect hc _
  · exact (settle_stays s).effect

/-! ### What each register can become -/

theorem DeliveryWrite.pend_kept_or_acknowledged {s : State} {a : Byte} {p : Option Pending} {b : List Request}
    {q : Pending} (h : DeliveryWrite s a p b) (hs : s.pend = some q) :
    p = some q ∨ ∃ pkt, s.ctl = .dispatch pkt ∧ pkt.type = 0x02#8 ∧ pkt.seq = q.seq := by
  cases h with
  | nothing => exact .inl hs
  | allocate r hc hp => cases hp.symm.trans hs
  | append r => exact .inl hs
  | observe pkt hc => exact .inl hs
  | finish pkt q' hc ht hp hq => cases hp.symm.trans hs; exact .inr ⟨pkt, hc, ht, hq.symm⟩
  | promote pkt q' r rest hc ht hp hq hb => cases hp.symm.trans hs; exact .inr ⟨pkt, hc, ht, hq.symm⟩

theorem DeliveryWrite.lastSeq_writers {s : State} {a : Byte} {p : Option Pending} {b : List Request}
    (h : DeliveryWrite s a p b) (hne : a ≠ s.lastSeq) :
    (∃ pkt, s.ctl = .dispatch pkt ∧ (a = pkt.seq ∨ (pkt.type = 0x02#8 ∧ a = pkt.seq + 1#8))) ∨
    (s.ctl = .idle ∧ s.pend = none ∧ a = s.lastSeq + 1#8 ∧ p.map Pending.seq = some a) := by
  cases h with
  | nothing => contradiction
  | allocate r hc hp => exact .inr ⟨hc, hp, rfl, rfl⟩
  | append r => contradiction
  | observe pkt hc => exact .inl ⟨pkt, hc, .inl rfl⟩
  | finish pkt q hc ht hp hq => exact .inl ⟨pkt, hc, .inl rfl⟩
  | promote pkt q r rest hc ht hp hq hb => exact .inl ⟨pkt, hc, .inr ⟨ht, rfl⟩⟩

theorem DeliveryWrite.bq_fifo {s : State} {a : Byte} {p : Option Pending} {b : List Request}
    (h : DeliveryWrite s a p b) :
    b = s.bq ∨ (∃ r, b = s.bq ++ [r]) ∨
    (∃ r q, s.bq = r :: b ∧ p = some q ∧ q.dest = r.dest ∧ q.type = r.type ∧ q.pay = r.pay) := by
  cases h with
  | nothing => exact .inl rfl
  | allocate r hc hp => exact .inl rfl
  | append r => exact .inr (.inl ⟨r, rfl⟩)
  | observe pkt hc => exact .inl rfl
  | finish pkt q hc ht hp hq => exact .inl rfl
  | promote pkt q r rest hc ht hp hq hb => exact .inr (.inr ⟨r, _, hb, rfl, rfl, rfl, rfl⟩)

/-- Settles O48: a step moves MODE to DISARMED or along an edge of SET_MODE, and no such edge leaves DISARMED. -/
theorem disarmedIsTerminal : Obligations.DisarmedIsTerminal := by
  intro s t hs hr h
  obtain e | e | e := (step_effect hr h).mode
  · exact e.trans hs
  · exact e
  · rw [hs] at e; cases e

/-- Settles O50: of the six forms a step's writes can have, only the two of a matching ACK write a full slot. -/
theorem onlyMatchingAckEndsPending : Obligations.OnlyMatchingAckEndsPending := fun _ _ _ hs hr h =>
  (step_effect hr h).delivery.pend_kept_or_acknowledged hs

/-- Settles O51: LAST_SEQ is written by an allocation at IDLE and by the three reactions to a received frame. -/
theorem lastSeqHasTwoWriters : Obligations.LastSeqHasTwoWriters := fun _ _ hr h hne =>
  (step_effect hr h).delivery.lastSeq_writers hne

/-- Settles O52: QUEUE_SEND appends, the promotion by an ACK removes the head, and nothing else writes the backlog. -/
theorem backlogIsFirstInFirstOut : Obligations.BacklogIsFirstInFirstOut := fun _ _ hr h =>
  (step_effect hr h).delivery.bq_fifo

end Sys2Proof.Machine
end

section
/-! SUPPORT. Two runs side by side under `settle`, and the registers that influence nothing while they are out of use:
TXBUF, CHK_ACC and PEND_NEXT_RETRY (93_implementation_defined.md U1, U2). -/

namespace Sys2Proof.Machine

/-! ### A relation kept by every wait point is kept by a run -/

/-- Whatever a wait point does, CTL and the head of the queue it reads determine it: the converse of `passCtl_pass`. -/
theorem Pass.passCtl_eq {s t : State} (h : Pass s t) : passCtl s = some t := by
  cases h with
  | rxIdle p rest hc hq => simp only [passCtl, hc, atRxSample, takeLine, hq]
  | rxActive p rest hc hq => simp only [passCtl, hc, atRxSample, takeLine, hq]
  | rxStuck p rest hc hq => simp only [passCtl, hc, atRxWaitEnd, takeBurst, hq]
  | rxEnded p bs rest hc hq => simp only [passCtl, hc, atRxWaitEnd, takeBurst, hq]
  | rxNoLength p hc hq => simp only [passCtl, hc, atRxLen, takeByte, hq]
  | rxLength p b rest hc hq => simp only [passCtl, hc, atRxLen, takeByte, hq]
  | rxShort p len buf hc hq => exact passCtl_rxBody_none hc hq
  | rxMore p len b buf rest hc hq hl => rw [passCtl_rxBody_some hc hq, if_pos hl]; rfl
  | rxLast p len b buf rest hc hq hl => rw [passCtl_rxBody_some hc hq, if_neg (by omega)]; rfl
  | arbIdle k rest hc hq => simp only [passCtl, hc, atArbSample, takeLine, hq]
  | arbBusy k rest hc hq => simp only [passCtl, hc, atArbSample, takeLine, hq]
  | arbDraw k x rest hc hq => simp only [passCtl, hc, atArbDraw, takeDraw, hq]
  | arbSlept k d hc => simp only [passCtl, hc]
  | settled k hc => simp only [passCtl, hc]
  | txMore k i b hc hb hl => rw [passCtl_txByte hc hb, if_pos hl]
  | txLast k i b hc hb hl => rw [passCtl_txByte hc hb, if_neg (by omega)]
  | txNone k i hc hb => simp only [passCtl, hc, atTxByte, hb]
  | retryTest x rest hc hq => simp only [passCtl, hc, atTimeSample, takeNow, hq]
  | arm k x rest hc hq => simp only [passCtl, hc, atTimeSample, takeNow, hq]

theorem Pass.advance_eq {s t : State} (h : Pass s t) (hr : s.rst ≠ some 0) :
    advance s = some { t with rst := countDown s.rst } := by
  unfold advance
  split
  · contradiction
  · rw [h.passCtl_eq]; rfl

/-- If of two related states the second can always follow the first over a wait point, their runs end related, whatever
the two bounds on the number of wait points are. -/
theorem settle_lockstep {R : State → State → Prop} (symm : ∀ {s s'}, R s s' → R s' s)
    (follow : ∀ {s s' t}, R s s' → advance s = some t → ∃ t', advance s' = some t' ∧ R t t') {s s' : State}
    (h : R s s') : R (settle s) (settle s') := by
  induction hn : s.potential using Nat.strongRecOn generalizing s s' with
  | ind n ih =>
    subst hn
    cases ha : advance s with
    | some t =>
      obtain ⟨t', ha', ht⟩ := follow h ha
      rw [settle_advance ha, settle_advance ha']
      exact ih _ (advance_potential ha) ht rfl
    | none =>
      have stuck : advance s' = none := by
        cases ha' : advance s' with
        | none => rfl
        | some t' =>
          obtain ⟨t, hs, -⟩ := follow (symm h) ha'
          cases ha.symm.trans hs
      rw [settle_of_none ha, settle_of_none stuck]
      exact h

/-! ### States that differ in unread registers only -/

/-- `s` with other contents in TXBUF, CHK_ACC and PEND_NEXT_RETRY. -/
def State.vary (buf : List Byte) (acc : Half) (n : Nat) (s : State) : State :=
  { s with txbuf := buf, chkAcc := acc, pendNextRetry := n }

/-- The second state is the first but for CHK_ACC, for TXBUF outside SEND_GATED, and for PEND_NEXT_RETRY while nothing is
pending or START_PENDING is not finished. With `W` the working registers TXBUF and CHK_ACC are the same as well, with `K`
PEND_NEXT_RETRY is. -/
inductive Alike (W K : Prop) (s : State) : State → Prop where
  | intro (buf : List Byte) (acc : Half) (n : Nat) (htx : W ∨ s.ctl.sender ≠ none → buf = s.txbuf)
      (hacc : W → acc = s.chkAcc)
      (hretry : K ∨ s.pend ≠ none ∧ s.ctl.starting = false → n = s.pendNextRetry) :
      Alike W K s (s.vary buf acc n)

/-- What has to be the same at `c'` already has to be at `c`: from `c` to `c'` SEND_GATED is not entered, and START_PENDING
does not finish. -/
structure Ctl.Covers (c c' : Ctl) : Prop where
  sender : c'.sender ≠ none → c.sender ≠ none
  starting : c'.starting = false → c.starting = false

theorem Ctl.Covers.trans {c c' c'' : Ctl} (h : c.Covers c') (g : c'.Covers c'') : c.Covers c'' :=
  ⟨fun e => h.sender (g.sender e), fun e => h.starting (g.starting e)⟩

theorem Ctl.Covers.of_eq {c d c' : Ctl} (hc : c = d) (h : d.Covers c') : c.Covers c' := hc ▸ h

/-- Where START_PENDING does not run, it cannot finish. -/
theorem Ctl.Covers.of_starting {c c' : Ctl} (hf : c.starting = false) (hs : c'.sender = none) : c.Covers c' :=
  ⟨fun e => absurd hs e, fun _ => hf⟩

/-! The points of one POLL use the same registers. -/

theorem Ctl.rxWaitEnd_covers (p : Poller) :
    (Ctl.rxSample p).Covers (.rxWaitEnd p) ∧ (Ctl.rxWaitEnd p).Covers (.rxSample p) := by
  cases p <;> exact ⟨⟨id, id⟩, ⟨id, id⟩⟩

theorem Ctl.rxLen_covers (p : Poller) : (Ctl.rxSample p).Covers (.rxLen p) ∧ (Ctl.rxLen p).Covers (.rxSample p) := by
  cases p <;> exact ⟨⟨id, id⟩, ⟨id, id⟩⟩

theorem Ctl.rxBody_covers (p : Poller) (len : Byte) (buf : List Byte) :
    (Ctl.rxSample p).Covers (.rxBody p len buf) ∧ (Ctl.rxBody p len buf).Covers (.rxSample p) := by
  cases p <;> exact ⟨⟨id, id⟩, ⟨id, id⟩⟩

/-- TRANSMIT's end leaves SEND_GATED, with START_PENDING not finished if it runs. -/
theorem Ctl.txByte_covers (k : Sender) (i : Nat) : (Ctl.txByte k i).Covers (.timeSample (.arm k)) :=
  ⟨fun e => absurd rfl e, id⟩

section
variable {W K : Prop} {s s' t : State}

theorem Alike.refl (s : State) : Alike W K s s :=
  .intro s.txbuf s.chkAcc s.pendNextRetry (fun _ => rfl) (fun _ => rfl) (fun _ => rfl)

theorem Alike.symm (h : Alike W K s s') : Alike W K s' s := by
  cases h with | intro buf acc n htx hacc hretry
  exact .intro (s := s.vary buf acc n) s.txbuf s.chkAcc s.pendNextRetry (fun g => (htx g).symm) (fun g => (hacc g).symm)
    (fun g => (hretry g).symm)

theorem Alike.pend (h : Alike W K s s') : s'.pend = s.pend := by cases h; rfl
theorem Alike.bq (h : Alike W K s s') : s'.bq = s.bq := by cases h; rfl
theorem Alike.mode (h : Alike W K s s') : s'.mode = s.mode := by cases h; rfl
theorem Alike.ctl (h : Alike W K s s') : s'.ctl = s.ctl := by cases h; rfl
theorem Alike.rst (h : Alike W K s s') : s'.rst = s.rst := by cases h; rfl
theorem Alike.cmdQ (h : Alike W K s s') : s'.cmdQ = s.cmdQ := by cases h; rfl
theorem Alike.terminal (h : Alike W K s s') : s'.terminal = s.terminal := by cases h; rfl
theorem Alike.backlogRoom (h : Alike W K s s') : s'.backlogRoom = s.backlogRoom := by cases h; rfl

/-! ### Each operation keeps the relation -/

/-- An operation that neither reads nor writes the three registers, and leaves CTL and the pending slot. That it leaves
their contents follows: it gives the same with the contents they have. -/
theorem Alike.map {f : State → State} (h : Alike W K s s')
    (comm : ∀ buf acc n, f (s.vary buf acc n) = (f s).vary buf acc n := by exact fun _ _ _ => rfl)
    (hctl : (f s).ctl = s.ctl := by rfl) (hpend : (f s).pend = s.pend := by rfl) : Alike W K (f s) (f s') := by
  have same := comm s.txbuf s.chkAcc s.pendNextRetry
  cases h with | intro buf acc n htx hacc hretry
  rw [comm]
  refine .intro buf acc n (fun g => ?_) (fun g => ?_) (fun g => ?_)
  · exact (htx (hctl ▸ g)).trans (congrArg State.txbuf same).symm
  · exact (hacc g).trans (congrArg State.chkAcc same).symm
  · exact (hretry (hctl ▸ hpend ▸ g)).trans (congrArg State.pendNextRetry same).symm

theorem goto_alike {c : Ctl} (h : Alike W K s s') (hc : s.ctl.Covers c) : Alike W K (goto c s) (goto c s') := by
  cases h with | intro buf acc n htx hacc hretry
  exact .intro (s := goto c s) buf acc n (fun g => htx (g.imp_right hc.sender)) hacc
    (fun g => hretry (g.imp_right fun ⟨hp, hs⟩ => ⟨hp, hc.starting hs⟩))

theorem emit_alike (e : Event) (h : Alike W K s s') : Alike W K (emit e s) (emit e s') := h.map

/-- To answer a command is to go to IDLE as far as the three registers are concerned. -/
theorem respond_alike (status : Status) (h : Alike W K s s') (hf : s.ctl.starting = false) :
    Alike W K (respond status s) (respond status s') := by
  cases h with | intro buf acc n htx hacc hretry
  exact .intro (s := respond status s) buf acc n (fun g => htx (g.imp_right (absurd rfl))) hacc
    (fun g => hretry (g.imp_right fun ⟨hp, _⟩ => ⟨hp, hf⟩))

theorem requestDone_alike (op : SendCmd) (h : Alike W K s s') (hf : s.ctl.starting = false) :
    Alike W K (requestDone op s) (requestDone op s') := by
  cases op with
  | unableToArm => exact respond_alike .ok h hf
  | strike => exact respond_alike .ok h hf
  | disarmed => exact respond_alike .ok (h.map (f := fun s => { s with mode := .disarmed })) hf

theorem retryCheck_alike (h : Alike W K s s') (hf : s.ctl.starting = false) :
    Alike W K (retryCheck s) (retryCheck s') := by
  unfold retryCheck
  rw [h.pend]
  cases s.pend with
  | none => exact respond_alike .ok h hf
  | some q => exact goto_alike h (.of_starting hf rfl)

/-- SEND_GATED is entered with TXBUF and CHK_ACC written, so they agree from here on. -/
theorem sendGated_alike (k : Sender) (q : Pending) (h : Alike W K s s')
    (hk : (Ctl.arbSample k).starting = false → s.ctl.starting = false) :
    Alike W K (sendGated k q s) (sendGated k q s') := by
  cases h with | intro buf acc n htx hacc hretry
  exact .intro (s := sendGated k q s) _ _ n (fun _ => rfl) (fun _ => rfl)
    (fun g => hretry (g.imp_right fun ⟨hp, hs⟩ => ⟨hp, hk hs⟩))

/-- START_PENDING, in which PEND_NEXT_RETRY is not read until it is written. -/
theorem startPending_alike {k : Sender} (hk : (Ctl.arbSample k).starting = true) (r : Request) (h : Alike W K s s') :
    Alike W K (startPending k r s) (startPending k r s') := by
  cases h with | intro buf acc n htx hacc hretry
  exact .intro (s := startPending k r s) _ _ n (fun _ => rfl) (fun _ => rfl)
    (fun g => hretry (g.imp_right fun ⟨_, hs⟩ => nomatch hk.symm.trans hs))

theorem queueSend_of_empty {op : SendCmd} {r : Request} (hp : s.pend = none) :
    queueSend op r s = startPending (.request op) r s := by
  simp only [queueSend, hp]

theorem queueSend_of_pending {op : SendCmd} {r : Request} {q : Pending} (hp : s.pend = some q) :
    queueSend op r s = if s.backlogRoom then requestDone op { s with bq := s.bq ++ [r] }
      else respond .busy (emit .txqFull s) := by
  simp only [queueSend, hp]

theorem queueSend_alike (op : SendCmd) (r : Request) (h : Alike W K s s') (hf : s.ctl.starting = false) :
    Alike W K (queueSend op r s) (queueSend op r s') := by
  cases hp : s.pend with
  | none =>
    rw [queueSend_of_empty hp, queueSend_of_empty (h.pend.trans hp)]
    exact startPending_alike rfl r h
  | some q =>
    rw [queueSend_of_pending hp, queueSend_of_pending (h.pend.trans hp), h.backlogRoom]
    split
    · exact requestDone_alike op (h.map (f := fun s => { s with bq := s.bq ++ [r] })) hf
    · exact respond_alike .busy (emit_alike _ h) hf

/-- RETRY_CHECK reads PEND_NEXT_RETRY with a packet pending that is no longer being started, where it is the same. -/
theorem retryTest_alike (x : Nat) (h : Alike W K s s') (hf : s.ctl.starting = false) :
    Alike W K (retryTest x s) (retryTest x s') := by
  unfold retryTest
  rw [h.pend]
  cases hp : s.pend with
  | none => exact respond_alike .ok h hf
  | some q =>
    have due : s'.retryDue x = s.retryDue x := by
      cases h with | intro buf acc n htx hacc hretry
      have hn : n = s.pendNextRetry := hretry (.inr ⟨by simp [hp], hf⟩)
      rw [hn]; rfl
    dsimp only
    rw [due]
    split
    · exact sendGated_alike .retry q (emit_alike _ h) fun _ => hf
    · exact respond_alike .ok h hf

/-- What follows a transmission does not look at CTL. -/
theorem armed_goto (k : Sender) (x : Nat) (c : Ctl) (s : State) : armed k x (goto c s) = armed k x s := by
  cases k with
  | request op => cases op <;> rfl
  | promoted => exact pollDone_goto .tick none c (armRetry x s)
  | retry => rfl

/-- PEND_NEXT_RETRY is written before START_PENDING finishes, so it agrees from here on. -/
theorem armed_alike (k : Sender) (x : Nat) (h : Alike W K s s') : Alike W K (armed k x s) (armed k x s') := by
  have written : Alike W K (armRetry x (goto .idle s)) (armRetry x (goto .idle s')) := by
    cases h with | intro buf acc n htx hacc hretry
    exact .intro (s := armRetry x (goto .idle s)) buf acc _ (fun g => htx (g.imp_right (absurd rfl))) hacc
      (fun _ => rfl)
  rw [← armed_goto k x .idle s, ← armed_goto k x .idle s']
  cases k with
  | request op => exact requestDone_alike op written rfl
  | promoted => exact retryCheck_alike written rfl
  | retry => exact respond_alike .ok written rfl

theorem acknowledge_alike (seq : Byte) (h : Alike W K s s') (hf : s.ctl.starting = false) :
    Alike W K (acknowledge seq s) (acknowledge seq s') := by
  unfold acknowledge
  rw [h.bq]
  cases h with | intro buf acc n htx hacc hretry
  have cleared (b : List Request) :
      Alike W K { s with pend := none, bq := b } { s.vary buf acc n with pend := none, bq := b } :=
    .intro (s := { s with pend := none, bq := b }) buf acc n htx hacc
      (fun g => hretry (g.imp_right fun ⟨hp, _⟩ => absurd rfl hp))
  cases s.bq with
  | nil => exact retryCheck_alike (emit_alike _ (cleared [])) hf
  | cons r rest => exact startPending_alike rfl r (emit_alike _ (cleared rest))

theorem ackHandle_alike (seq : Byte) (h : Alike W K s s') (hf : s.ctl.starting = false) :
    Alike W K (ackHandle seq s) (ackHandle seq s') := by
  unfold ackHandle
  rw [h.pend]
  cases s.pend with
  | none => exact retryCheck_alike (emit_alike _ h) hf
  | some q =>
    dsimp only
    split
    · exact acknowledge_alike seq h hf
    · exact retryCheck_alike (emit_alike _ h) hf

theorem pollDone_alike (p : Poller) (r : Option Packet) (h : Alike W K s s') (hc : s.ctl.Covers (.rxSample p)) :
    Alike W K (pollDone p r s) (pollDone p r s') := by
  match p, r with
  | .tick, some pkt => exact goto_alike h (hc.trans ⟨id, id⟩)
  | .tick, none => exact retryCheck_alike h (hc.starting rfl)
  | .drain k, r => exact goto_alike (emit_alike _ h) (hc.trans ⟨id, id⟩)

theorem flush_alike (h : Alike W K s s') : Alike W K (flush s) (flush s') := h.map

theorem pollRaise_alike (p : Poller) (e : Event) (h : Alike W K s s') (hc : s.ctl.Covers (.rxSample p)) :
    Alike W K (pollRaise p e s) (pollRaise p e s') :=
  pollDone_alike p none (emit_alike e (flush_alike h)) hc

theorem pollDecode_alike (p : Poller) (bytes : List Byte) (h : Alike W K s s') (hc : s.ctl.Covers (.rxSample p)) :
    Alike W K (pollDecode p bytes s) (pollDecode p bytes s') := by
  have summed : Alike W K (sumBytes (summed bytes) s) (sumBytes (summed bytes) s') := by
    cases h with | intro buf acc n htx hacc hretry
    exact .intro (s := sumBytes (summed bytes) s) buf _ n htx (fun _ => rfl) hretry
  unfold pollDecode
  cases decodeFrame bytes with
  | ok pkt => exact pollDone_alike p (some pkt) (flush_alike summed) hc
  | error e => exact pollRaise_alike p (rxEvent e) summed hc

theorem forward_alike (type : Byte) (m : Msg) (h : Alike W K s s') (hf : s.ctl.starting = false) :
    Alike W K (forward type m s) (forward type m s') :=
  retryCheck_alike (h.map (f := fun s => keepForward (Forwarded.of type m) (observeSeq m.seq s))) hf

/-! ### Each wait point and each run keeps the relation -/

/-- A wait point reads TXBUF inside TRANSMIT only and PEND_NEXT_RETRY in RETRY_CHECK only, where they are the same;
CHK_ACC it only writes. -/
theorem Alike.pass (h : Alike W K s s') (hp : Pass s t) : ∃ t', Pass s' t' ∧ Alike W K t t' := by
  cases h with | intro buf acc n htx hacc hretry
  cases hp with
  | rxIdle p rest hc hq =>
    exact ⟨_, .rxIdle p rest hc hq,
      pollDone_alike p none (.intro buf acc n htx hacc hretry) (.of_eq hc ⟨id, id⟩)⟩
  | rxActive p rest hc hq =>
    exact ⟨_, .rxActive p rest hc hq,
      goto_alike (.intro buf acc n htx hacc hretry) (.of_eq hc (Ctl.rxWaitEnd_covers p).1)⟩
  | rxStuck p rest hc hq =>
    exact ⟨_, .rxStuck p rest hc hq,
      pollRaise_alike p _ (.intro buf acc n htx hacc hretry) (.of_eq hc (Ctl.rxWaitEnd_covers p).2)⟩
  | rxEnded p bs rest hc hq =>
    exact ⟨_, .rxEnded p bs rest hc hq,
      goto_alike (.intro buf acc n htx hacc hretry)
        (.of_eq hc ((Ctl.rxWaitEnd_covers p).2.trans (Ctl.rxLen_covers p).1))⟩
  | rxNoLength p hc hq =>
    exact ⟨_, .rxNoLength p hc hq,
      pollRaise_alike p _ (.intro buf acc n htx hacc hretry) (.of_eq hc (Ctl.rxLen_covers p).2)⟩
  | rxLength p b rest hc hq =>
    exact ⟨_, .rxLength p b rest hc hq,
      goto_alike (.intro buf acc n htx hacc hretry)
        (.of_eq hc ((Ctl.rxLen_covers p).2.trans (Ctl.rxBody_covers p _ _).1))⟩
  | rxShort p len bs hc hq =>
    exact ⟨_, .rxShort p len bs hc hq,
      pollRaise_alike p _ (.intro buf acc n htx hacc hretry) (.of_eq hc (Ctl.rxBody_covers p _ _).2)⟩
  | rxMore p len b bs rest hc hq hl =>
    exact ⟨_, .rxMore p len b bs rest hc hq hl,
      goto_alike (.intro buf acc n htx hacc hretry)
        (.of_eq hc ((Ctl.rxBody_covers p _ _).2.trans (Ctl.rxBody_covers p _ _).1))⟩
  | rxLast p len b bs rest hc hq hl =>
    exact ⟨_, .rxLast p len b bs rest hc hq hl,
      pollDecode_alike p _ (.intro buf acc n htx hacc hretry) (.of_eq hc (Ctl.rxBody_covers p _ _).2)⟩
  | arbIdle k rest hc hq =>
    exact ⟨_, .arbIdle k rest hc hq,
      goto_alike (.intro buf acc n htx hacc hretry) (.of_eq hc ⟨id, id⟩)⟩
  | arbBusy k rest hc hq =>
    exact ⟨_, .arbBusy k rest hc hq,
      goto_alike (.intro buf acc n htx hacc hretry) (.of_eq hc ⟨id, id⟩)⟩
  | arbDraw k x rest hc hq =>
    exact ⟨_, .arbDraw k x rest hc hq,
      goto_alike (.intro buf acc n htx hacc hretry) (.of_eq hc ⟨id, id⟩)⟩
  | arbSlept k d hc =>
    exact ⟨_, .arbSlept k d hc,
      goto_alike (.intro buf acc n htx hacc hretry) (.of_eq hc ⟨id, id⟩)⟩
  | settled k hc =>
    exact ⟨_, .settled k hc,
      goto_alike (.intro buf acc n htx hacc hretry) (.of_eq hc ⟨id, id⟩)⟩
  | txMore k i b hc hb hl =>
    obtain rfl : buf = s.txbuf := htx (.inr (by rw [hc]; exact Option.some_ne_none k))
    exact ⟨_, .txMore k i b hc hb hl,
      goto_alike (.intro _ acc n htx hacc hretry) (.of_eq hc ⟨id, id⟩)⟩
  | txLast k i b hc hb hl =>
    obtain rfl : buf = s.txbuf := htx (.inr (by rw [hc]; exact Option.some_ne_none k))
    exact ⟨_, .txLast k i b hc hb hl,
      goto_alike (.intro _ acc n htx hacc hretry) (.of_eq hc (Ctl.txByte_covers k i))⟩
  | txNone k i hc hb =>
    obtain rfl : buf = s.txbuf := htx (.inr (by rw [hc]; exact Option.some_ne_none k))
    exact ⟨_, .txNone k i hc hb,
      goto_alike (.intro _ acc n htx hacc hretry) (.of_eq hc (Ctl.txByte_covers k i))⟩
  | retryTest x rest hc hq =>
    exact ⟨_, .retryTest x rest hc hq,
      retryTest_alike _ (.intro buf acc n htx hacc hretry) (congrArg Ctl.starting hc)⟩
  | arm k x rest hc hq =>
    exact ⟨_, .arm k x rest hc hq,
      armed_alike k _ (.intro buf acc n htx hacc hretry)⟩

theorem Alike.advance (h : Alike W K s s') (ha : advance s = some t) :
    ∃ t', advance s' = some t' ∧ Alike W K t t' := by
  obtain ⟨hr, u, hu, rfl⟩ := advance_pass ha
  obtain ⟨u', hu', hau⟩ := h.pass hu
  refine ⟨_, hu'.advance_eq (by rw [h.rst]; exact hr), ?_⟩
  rw [h.rst]
  exact hau.map (f := fun u => { u with rst := countDown s.rst })

theorem settle_alike (h : Alike W K s s') : Alike W K (settle s) (settle s') :=
  settle_lockstep (R := Alike W K) Alike.symm Alike.advance h

/-! ### Each instruction and each step keeps the relation -/

theorem atIdle_alike {run : State → State} (h : Alike W K s s') (he : atIdle s run = .next t)
    (hrun : ∀ {u u' : State}, u.ctl = .idle → Alike W K u u' → Alike W K (run u) (run u')) :
    ∃ t', atIdle s' run = .next t' ∧ Alike W K t t' := by
  obtain ⟨hc, rfl⟩ := atIdle_next he
  exact ⟨_, atIdle_of_idle (h.ctl.trans hc) run, hrun hc (h.map (f := accept))⟩

theorem atDispatch_alike {run : State → State} (h : Alike W K s s') (he : atDispatch s run = .next t)
    (hrun : s.ctl.starting = false → Alike W K (run s) (run s')) :
    ∃ t', atDispatch s' run = .next t' ∧ Alike W K t t' := by
  obtain ⟨⟨pkt, hc⟩, rfl⟩ := atDispatch_next he
  exact ⟨_, atDispatch_of_dispatch (h.ctl.trans hc) run, hrun (congrArg Ctl.starting hc)⟩

theorem guardedSend_alike (op : SendCmd) (r : Request) (h : Alike W K s s') (hf : s.ctl.starting = false) :
    Alike W K (if s.terminal then respond .rejected (emit (.terminalReject op) s) else settle (queueSend op r s))
      (if s'.terminal then respond .rejected (emit (.terminalReject op) s') else settle (queueSend op r s')) := by
  rw [h.terminal]
  split
  · exact respond_alike .rejected (emit_alike _ h) hf
  · exact settle_alike (queueSend_alike op r h hf)

theorem setMode_alike (m : Mode) (h : Alike W K s s') (hf : s.ctl.starting = false) :
    Alike W K
      (if legalEdge s.mode m then respond .ok { s with mode := m }
        else respond .badEdge (emit (.illegalModeEdge s.mode m) s))
      (if legalEdge s'.mode m then respond .ok { s' with mode := m }
        else respond .badEdge (emit (.illegalModeEdge s'.mode m) s')) := by
  rw [h.mode]
  split
  · exact respond_alike .ok (h.map (f := fun s => { s with mode := m })) hf
  · exact respond_alike .badEdge (emit_alike _ h) hf

theorem exec_command_alike {w : Byte} {i : Instr} (hd : decodeCommand w = .ok i) (h : Alike W K s s')
    (he : exec i s = .next t) : ∃ t', exec i s' = .next t' ∧ Alike W K t t' := by
  have idle {u : State} (hc : u.ctl = .idle) : u.ctl.starting = false := congrArg Ctl.starting hc
  obtain rfl | rfl | rfl | rfl | ⟨m, rfl⟩ := decodeCommand_cases hd
  · rw [exec_tick_eq] at he ⊢
    exact atIdle_alike h he fun hc g => settle_alike (goto_alike g (.of_starting (idle hc) rfl))
  · rw [exec_unableToArm_eq] at he ⊢
    exact atIdle_alike h he fun hc g => settle_alike (queueSend_alike _ _ g (idle hc))
  · rw [exec_disarmed_eq] at he ⊢
    exact atIdle_alike h he fun hc g => guardedSend_alike .disarmed _ g (idle hc)
  · rw [exec_strike_eq] at he ⊢
    exact atIdle_alike h he fun hc g => guardedSend_alike .strike _ g (idle hc)
  · rw [exec_setMode_eq] at he ⊢
    exact atIdle_alike h he fun hc g => setMode_alike m g (idle hc)

theorem exec_message_alike {k : MsgKind} {m : Msg} (h : Alike W K s s') (he : exec (Instr.ofKind k m) s = .next t) :
    ∃ t', exec (Instr.ofKind k m) s' = .next t' ∧ Alike W K t t' := by
  by_cases hk : k = .ack
  · subst hk
    rw [exec_ack_eq] at he ⊢
    exact atDispatch_alike h he fun hf => ackHandle_alike m.seq (h.map (f := observeSeq m.seq)) hf
  · rw [exec_ofKind_eq_of_ne_ack hk] at he ⊢
    exact atDispatch_alike h he (forward_alike _ m h)

theorem rejectWord_alike (w : Byte) (h : Alike W K s s') (hf : s.ctl.starting = false) :
    Alike W K (rejectWord w s) (rejectWord w s') :=
  respond_alike .illegal (emit_alike _ (h.map (f := accept))) hf

theorem step_alike_of_idle (h : Alike W K s s') (hr : s.rst ≠ some 0) (hc : s.ctl = .idle) (hs : step s = .next t) :
    ∃ t', step s' = .next t' ∧ Alike W K t t' := by
  have hr' : s'.rst ≠ some 0 := by rw [h.rst]; exact hr
  have hc' := h.ctl.trans hc
  cases hq : s.cmdQ with
  | nil =>
    cases (step_idle hr hc hq).symm.trans hs
    exact ⟨_, step_idle hr' hc' (h.cmdQ.trans hq), h⟩
  | cons w rest =>
    have hq' := h.cmdQ.trans hq
    have taken : Alike W K { s with cmdQ := rest } { s' with cmdQ := rest } :=
      h.map (f := fun s => { s with cmdQ := rest })
    cases hd : decodeCommand w with
    | ok i =>
      rw [step_command hr hc hq hd] at hs
      rw [step_command hr' hc' hq' hd]
      exact exec_command_alike hd taken hs
    | error e =>
      cases (step_illegal hr hc hq hd).symm.trans hs
      exact ⟨_, step_illegal hr' hc' hq' hd, rejectWord_alike w taken (congrArg Ctl.starting hc)⟩

theorem step_alike_of_dispatch {pkt : Packet} (h : Alike W K s s') (hr : s.rst ≠ some 0) (hc : s.ctl = .dispatch pkt)
    (hs : step s = .next t) : ∃ t', step s' = .next t' ∧ Alike W K t t' := by
  have hr' : s'.rst ≠ some 0 := by rw [h.rst]; exact hr
  have hc' := h.ctl.trans hc
  cases hd : decodePacket pkt with
  | ok i =>
    rw [step_message hr hc hd] at hs
    rw [step_message hr' hc' hd]
    obtain ⟨k, -, rfl⟩ := decodePacket_cases hd
    exact exec_message_alike h hs
  | error e =>
    cases (step_reserved hr hc hd).symm.trans hs
    exact ⟨_, step_reserved hr' hc' hd, forward_alike _ _ h (congrArg Ctl.starting hc)⟩

theorem step_alike (h : Alike W K s s') (hs : step s = .next t) : ∃ t', step s' = .next t' ∧ Alike W K t t' := by
  by_cases hr : s.rst = some 0
  · cases (step_reset hr).symm.trans hs
    refine ⟨_, step_reset (h.rst.trans hr), ?_⟩
    cases h
    exact .refl (hardReset s)
  by_cases hi : s.ctl = .idle
  · exact step_alike_of_idle h hr hi hs
  by_cases hd : ∃ pkt, s.ctl = .dispatch pkt
  · obtain ⟨pkt, hc⟩ := hd
    exact step_alike_of_dispatch h hr hc hs
  · rw [not_exists] at hd
    cases (step_running hr hi hd).symm.trans hs
    have running' := step_running (s := s') (by rw [h.rst]; exact hr) (by rw [h.ctl]; exact hi) (by rw [h.ctl]; exact hd)
    exact ⟨_, running', settle_alike h⟩

end

/-- Settles O56: the two states are `Alike` with the same PEND_NEXT_RETRY, and a step keeps that. -/
theorem workingRegistersNeverInfluence : Obligations.WorkingRegistersNeverInfluence := by
  intro s t buf acc hbuf hs
  have start : Alike False True s { s with txbuf := buf, chkAcc := acc } :=
    .intro buf acc s.pendNextRetry (fun g => hbuf (g.resolve_left id)) False.elim (fun _ => rfl)
  obtain ⟨t', hs', buf', acc', n', htx, -, hretry⟩ := step_alike start hs
  obtain rfl : n' = t.pendNextRetry := hretry (.inl trivial)
  exact ⟨buf', acc', fun g => htx (.inr g), hs'⟩

/-- Settles O57: the two states are `Alike` with the same TXBUF and CHK_ACC, and a step keeps that. -/
theorem retryTimeUnreadWhileEmpty : Obligations.RetryTimeUnreadWhileEmpty := by
  intro s t n hn hs
  have start : Alike True False s { s with pendNextRetry := n } :=
    .intro s.txbuf s.chkAcc n (fun _ => rfl) (fun _ => rfl) (fun g => (g.resolve_left id).elim hn)
  obtain ⟨t', hs', buf', acc', n', htx, hacc, hretry⟩ := step_alike start hs
  obtain rfl : buf' = t.txbuf := htx (.inl trivial)
  obtain rfl : acc' = t.chkAcc := hacc trivial
  exact ⟨n', fun hp hc => hretry (.inr ⟨hp, hc⟩), hs'⟩

end Sys2Proof.Machine
end

section
/-! SUPPORT. Decoding what was encoded: whole frames, messages and command words (30_encoding.md, 40_frame_codec.md R97). -/

namespace Sys2Proof

/-! ### A sealed body verifies (40_frame_codec.md R91, R92) -/

theorem chkVerify_chkGen (body : List Byte) : chkVerify body (chkGen body) = true := by
  have sum : chkSum body + (0xFFFF#16 - chkSum body) = 0xFFFF#16 := by
    rw [BitVec.add_comm, BitVec.sub_add_cancel]
  simp [chkVerify, chkGen, sum]

theorem take_sealBody (body : List Byte) : (sealBody body).take body.length = body :=
  List.take_left

/-- The checksum is read back where `sealBody` put it, right after the body (30_encoding.md R65). -/
theorem memRead16_sealBody (body : List Byte) : memRead16 (sealBody body) body.length = chkGen body := by
  simp [memRead16, byteAt, sealBody]

/-! ### A whole frame (30_encoding.md R60, 40_frame_codec.md R95 to R97) -/

/-- The length field never wraps for a payload of at most MAX_PAYLOAD bytes (30_encoding.md R61). -/
theorem frameLength_toNat {p : List Byte} (hp : p.length ≤ Config.maxPayload) :
    (BitVec.ofNat 8 (6 + p.length)).toNat = 6 + p.length := by
  have : p.length ≤ 249 := hp
  rw [BitVec.toNat_ofNat]
  omega

theorem packetOf_frameBytes (a d : Half) (ty q : Byte) {p : List Byte} (hp : p.length ≤ Config.maxPayload) :
    packetOf (BitVec.ofNat 8 (6 + p.length)) (frameBytes a d ty q p) =
      ⟨BitVec.ofNat 8 (6 + p.length), a, d, ty, q, p⟩ := by
  simp [packetOf, frameLength_toNat hp, frameBytes, sealBody, frameBody, memRead16, byteAt]

/-- DECODE where none of its tests fails (40_frame_codec.md R96). -/
theorem decodeFrame_eq_ok {buf rest : List Byte} {len : Byte} (hb : buf = len :: rest)
    (hl : len.toNat + 3 ≤ buf.length)
    (hv : chkVerify (buf.take (len.toNat + 1)) (memRead16 buf (len.toNat + 1)) = true) (h6 : 6 ≤ len.toNat) :
    decodeFrame buf = .ok (packetOf len buf) := by
  subst hb
  rw [decodeFrame, if_neg (by omega), if_neg (ne_false_of_eq_true hv), if_neg (by omega)]

/-- DECODE accepts every frame of a payload of at most MAX_PAYLOAD bytes and gives its fields back. -/
theorem decodeFrame_frameBytes (a d : Half) (ty q : Byte) {p : List Byte} (hp : p.length ≤ Config.maxPayload) :
    decodeFrame (frameBytes a d ty q p) = .ok ⟨BitVec.ofNat 8 (6 + p.length), a, d, ty, q, p⟩ := by
  have hlen := frameLength_toNat hp
  have hbody : (BitVec.ofNat 8 (6 + p.length)).toNat + 1 = (frameBody a d ty q p).length := by
    rw [hlen, Machine.frameBody_length]
    omega
  have verified : chkVerify ((frameBytes a d ty q p).take (frameBody a d ty q p).length)
      (memRead16 (frameBytes a d ty q p) (frameBody a d ty q p).length) = true := by
    rw [frameBytes, take_sealBody, memRead16_sealBody, chkVerify_chkGen]
  rw [← packetOf_frameBytes a d ty q hp]
  refine decodeFrame_eq_ok rfl ?_ ?_ ?_
  · rw [hlen, Machine.frameBytes_length]
    omega
  · rw [hbody]
    exact verified
  · omega

/-! ### Instructions of both families (30_encoding.md R66, R70 to R72, R77) -/

@[simp] theorem MsgKind.ofByte_toByte (k : MsgKind) : MsgKind.ofByte k.toByte = some k := by
  cases k <;> rfl

/-- The reserved values select no kind (30_encoding.md R67). -/
theorem MsgKind.ofByte_reserved {b : Byte} (h : 13 ≤ b.toNat) : MsgKind.ofByte b = none := by
  revert b
  decide

theorem decodePacket_of_kind {p : Packet} {k : MsgKind} (h : p.type = k.toByte) :
    decodePacket p = .ok (Instr.ofKind k p.toMsg) := by
  simp only [decodePacket, h, MsgKind.ofByte_toByte]

theorem decodePacket_of_reserved {p : Packet} (h : 13 ≤ p.type.toNat) : decodePacket p = .error (.reservedKind p.type) := by
  simp only [decodePacket, MsgKind.ofByte_reserved h]

theorem decode_encodeMsg (k : MsgKind) {m : Msg} (hw : m.wf = true) :
    decode .line (encodeMsg k m) = .ok (Instr.ofKind k m) := by
  have hp : m.payload.length ≤ Config.maxPayload := of_decide_eq_true hw
  simp only [decode, encodeMsg, decodeFrame_frameBytes _ _ _ _ hp]
  exact decodePacket_of_kind rfl

/-- Settles O9: a command word is decoded by its three fields, and a message is the frame of its kind. -/
theorem instructionRoundTrip : Obligations.InstructionRoundTrip := by
  intro i hw
  cases i with
  | tick => rfl
  | unableToArm => rfl
  | disarmed => rfl
  | strike => rfl
  | setMode m => cases m <;> rfl
  | msgRequestId m => exact decode_encodeMsg .requestId hw
  | msgResponseId m => exact decode_encodeMsg .responseId hw
  | msgAck m => exact decode_encodeMsg .ack hw
  | msgStop m => exact decode_encodeMsg .stop hw
  | msgConfigure m => exact decode_encodeMsg .configure hw
  | msgStart m => exact decode_encodeMsg .start hw
  | msgStrike m => exact decode_encodeMsg .strike hw
  | msgError m => exact decode_encodeMsg .error hw
  | msgDefused m => exact decode_encodeMsg .defused hw
  | msgNeedy m => exact decode_encodeMsg .needy hw
  | msgReadStatus m => exact decode_encodeMsg .readStatus hw
  | msgStatus m => exact decode_encodeMsg .status hw
  | msgSound m => exact decode_encodeMsg .sound hw

/-- Settles O11: every kind's value selects that kind, and the values from 13 on select none. -/
theorem typeByteAloneSelectsTheKind : Obligations.TypeByteAloneSelectsTheKind :=
  ⟨fun _ _ => decodePacket_of_kind, fun _ => decodePacket_of_reserved⟩

/-- A word that is not rejected is decoded to an instruction. -/
theorem decodeCommand_ok_iff (w : Byte) : (∃ i, decodeCommand w = .ok i) ↔ (decodeCommand w).isOk = true := by
  cases decodeCommand w with
  | ok i => simp [Except.isOk, Except.toBool]
  | error e => simp [Except.isOk, Except.toBool]

/-- Settles O10: whether a word is rejected is computed for each of the 256. -/
theorem eightLegalCommandWords : Obligations.EightLegalCommandWords := by
  intro w
  rw [decodeCommand_ok_iff]
  revert w
  decide

/-- Settles O12: the five words, decoded. -/
theorem sampleWordsDecode : Obligations.SampleWordsDecode :=
  ⟨rfl, rfl, rfl, rfl, rfl⟩

end Sys2Proof
end

section
/-! SUPPORT. What a command can answer and when, said once: the response a run adds, its status, its events and its packet
(30_encoding.md R73, R74, 60_exceptions.md R190). -/

namespace Sys2Proof.Machine

/-! ### The response a command adds -/

/-- An event that ends no command, any code but 7 to 10 (60_exceptions.md R190). -/
def Event.ordinary (e : Event) : Prop := e.code < 7 ∨ 10 < e.code

/-- The refusals: each status other than OK with the one event that goes with it (60_exceptions.md R197 to R200). -/
inductive Refuses : Status → Event → Prop where
  | busy : Refuses .busy .txqFull
  | rejected (op : SendCmd) : Refuses .rejected (.terminalReject op)
  | badEdge (m m' : Mode) : Refuses .badEdge (.illegalModeEdge m m')
  | illegal (w : Byte) : Refuses .illegal (.illegalCmd w)

/-- From `s`, inside a command, to `t`: the command is not answered yet, or it is answered and the block is idle. The events
and the packet of the answer are those held in `s` and the ordinary events raised since; a refusal has one event only. -/
inductive Replies (s t : State) : Prop where
  | goesOn (es : List Event) (ordinary : ∀ e ∈ es, e.ordinary) (rsps : t.rsps = s.rsps) (events : t.events = s.events ++ es)
      (fwd : t.fwd = s.fwd)
  | answers (es : List Event) (ordinary : ∀ e ∈ es, e.ordinary) (idle : t.ctl = .idle)
      (rsps : t.rsps = s.rsps ++ [⟨.ok, s.events ++ es, s.fwd⟩])
  | refuses (st : Status) (e : Event) (refusal : Refuses st e) (idle : t.ctl = .idle) (held : s.events = [])
      (rsps : t.rsps = s.rsps ++ [⟨st, [e], s.fwd⟩])

/-- An operation that neither raises an event nor answers. -/
theorem Replies.silent {s t : State} (rsps : t.rsps = s.rsps) (events : t.events = s.events) (fwd : t.fwd = s.fwd) :
    Replies s t :=
  .goesOn [] (by simp) rsps (by simp [events]) fwd

/-- What follows silent operations replies as if they had not been. -/
theorem Replies.since {s t u : State} (h : Replies t u) (rsps : t.rsps = s.rsps) (events : t.events = s.events)
    (fwd : t.fwd = s.fwd) : Replies s u := by
  cases h with
  | goesOn es ho hr he hf => exact .goesOn es ho (hr.trans rsps) (by rw [he, events]) (hf.trans fwd)
  | answers es ho hi hr => exact .answers es ho hi (by rw [hr, rsps, events, fwd])
  | refuses st e h hi hh hr => exact .refuses st e h hi (events.symm.trans hh) (by rw [hr, rsps, fwd])

/-- An ordinary event raised first. -/
theorem Replies.raised {s t : State} {e : Event} (h : Replies (emit e s) t) (he : e.ordinary) : Replies s t := by
  cases h with
  | goesOn es ho hr hv hf =>
    exact .goesOn (e :: es) (List.forall_mem_cons.2 ⟨he, ho⟩) hr (by simp [hv]) hf
  | answers es ho hi hr => exact .answers (e :: es) (List.forall_mem_cons.2 ⟨he, ho⟩) hi (by simp [hr])
  | refuses st e' h hi hh hr => simp at hh

/-- A command that has not answered goes on. -/
theorem Replies.trans {s t u : State} (h : Replies s t) (running : t.ctl ≠ .idle) (g : Replies t u) : Replies s u := by
  cases h with
  | answers es ho hi hr => contradiction
  | refuses st e h hi hh hr => contradiction
  | goesOn es ho hr he hf =>
    cases g with
    | goesOn es' ho' hr' he' hf' =>
      exact .goesOn (es ++ es') (List.forall_mem_append.2 ⟨ho, ho'⟩) (hr'.trans hr)
        (by rw [he', he, List.append_assoc]) (hf'.trans hf)
    | answers es' ho' hi' hr' =>
      exact .answers (es ++ es') (List.forall_mem_append.2 ⟨ho, ho'⟩) hi'
        (by rw [hr', hr, he, hf, List.append_assoc])
    | refuses st e h' hi' hh' hr' =>
      exact .refuses st e h' hi' (List.append_eq_nil_iff.1 (he.symm.trans hh')).1 (by rw [hr', hr, hf])

theorem respond_ok_replies (s : State) : Replies s (respond .ok s) :=
  .answers [] (by simp) rfl (by simp)

theorem respond_refusal_replies {st : Status} {e : Event} (h : Refuses st e) {s : State} (held : s.events = []) :
    Replies s (respond st (emit e s)) :=
  .refuses st e h rfl held (by simp [held])

/-! ### The operations inside a command -/

theorem retryCheck_replies (s : State) : Replies s (retryCheck s) := by
  obtain ⟨-, h⟩ | ⟨q, -, h⟩ := retryCheck_cases s <;> rw [h]
  · exact respond_ok_replies s
  · exact .silent rfl rfl rfl

theorem requestDone_replies (op : SendCmd) (s : State) : Replies s (requestDone op s) := by
  rw [requestDone_eq]
  exact (respond_ok_replies _).since rfl rfl rfl

theorem pollDone_replies (p : Poller) (r : Option Packet) (s : State) : Replies s (pollDone p r s) := by
  obtain ⟨-, pkt, -, h⟩ | ⟨-, -, h⟩ | ⟨k, -, h⟩ := pollDone_cases p r s <;> rw [h]
  · exact .silent rfl rfl rfl
  · exact retryCheck_replies s
  · exact .raised (.silent rfl rfl rfl) (.inr (by decide : 10 < 13))

theorem pollRaise_replies (p : Poller) {e : Event} (he : e.ordinary) (s : State) : Replies s (pollRaise p e s) :=
  ((pollDone_replies p none (emit e (flush s))).raised he).since rfl rfl rfl

theorem rxEvent_ordinary (e : RxError) : (rxEvent e).ordinary := by
  cases e <;> simp [Event.ordinary, rxEvent, Event.code]

theorem pollDecode_replies (p : Poller) (buf : List Byte) (s : State) : Replies s (pollDecode p buf s) := by
  unfold pollDecode
  cases decodeFrame buf with
  | ok pkt => exact (pollDone_replies _ _ _).since rfl rfl rfl
  | error e => exact (pollRaise_replies p (rxEvent_ordinary e) _).since rfl rfl rfl

theorem retryTest_replies (x : Nat) (s : State) : Replies s (retryTest x s) := by
  obtain ⟨-, h⟩ | ⟨q, -, -, h⟩ | ⟨-, -, h⟩ := retryTest_cases x s <;> rw [h]
  · exact respond_ok_replies s
  · exact .raised (.silent rfl rfl rfl) (.inl (by decide : 5 < 7))
  · exact respond_ok_replies s

theorem armed_replies (k : Sender) (x : Nat) (s : State) : Replies s (armed k x s) := by
  obtain ⟨op, -, h⟩ | ⟨-, h⟩ | ⟨-, h⟩ := armed_cases k x s <;> rw [h]
  · exact (requestDone_replies op _).since rfl rfl rfl
  · exact (retryCheck_replies _).since rfl rfl rfl
  · exact (respond_ok_replies _).since rfl rfl rfl

theorem queueSend_replies (op : SendCmd) (r : Request) {s : State} (held : s.events = []) :
    Replies s (queueSend op r s) := by
  obtain ⟨-, h⟩ | ⟨-, -, h⟩ | ⟨-, -, h⟩ := queueSend_cases op r s <;> rw [h]
  · exact .silent rfl rfl rfl
  · exact (requestDone_replies op _).since rfl rfl rfl
  · exact respond_refusal_replies .busy held

theorem ackHandle_replies (seq : Byte) (s : State) : Replies s (ackHandle seq s) := by
  have acked : (Event.acked seq).ordinary := .inr (by decide : 10 < 11)
  obtain ⟨-, h⟩ | ⟨p, -, -, -, h⟩ | ⟨p, r, rest, -, -, -, h⟩ := ackHandle_cases seq s <;> rw [h]
  · exact (retryCheck_replies _).raised (.inr (by decide : 10 < 12))
  · exact ((retryCheck_replies _).raised acked).since rfl rfl rfl
  · have started : ∀ u : State, Replies u (startPending .promoted r u) := fun _ => .silent rfl rfl rfl
    exact ((started _).raised acked).since rfl rfl rfl

/-! ### A run of wait points answers at most once, with OK -/

theorem Pass.not_idle {s t : State} (h : Pass s t) : s.ctl ≠ .idle := by
  intro hc
  have stuck : passCtl s = none := by simp only [passCtl, hc]
  cases stuck.symm.trans h.passCtl_eq

theorem Pass.replies {s t : State} (h : Pass s t) : Replies s t := by
  have timedOut : ∀ stage, (Event.timeout stage).ordinary := fun _ => .inl (by decide : 3 < 7)
  cases h with
  | rxIdle p rest hc hq => exact (pollDone_replies _ _ _).since rfl rfl rfl
  | rxActive p rest hc hq => exact .silent rfl rfl rfl
  | rxStuck p rest hc hq => exact (pollRaise_replies p (timedOut _) _).since rfl rfl rfl
  | rxEnded p bs rest hc hq => exact .silent rfl rfl rfl
  | rxNoLength p hc hq => exact (pollRaise_replies p (timedOut _) _).since rfl rfl rfl
  | rxLength p b rest hc hq => exact .silent rfl rfl rfl
  | rxShort p len buf hc hq =>
    have short : (Event.shortRead len buf.length).ordinary := .inl (by decide : 2 < 7)
    exact (pollRaise_replies p short _).since rfl rfl rfl
  | rxMore p len b buf rest hc hq hl => exact .silent rfl rfl rfl
  | rxLast p len b buf rest hc hq hl => exact (pollDecode_replies _ _ _).since rfl rfl rfl
  | arbIdle k rest hc hq => exact .silent rfl rfl rfl
  | arbBusy k rest hc hq => exact .raised (.silent rfl rfl rfl) (.inl (by decide : 6 < 7))
  | arbDraw k x rest hc hq => exact .silent rfl rfl rfl
  | arbSlept k d hc => exact .silent rfl rfl rfl
  | settled k hc => exact .silent rfl rfl rfl
  | txMore k i b hc hb hl => exact .silent rfl rfl rfl
  | txLast k i b hc hb hl => exact .silent rfl rfl rfl
  | txNone k i hc hb => exact .silent rfl rfl rfl
  | retryTest x rest hc hq => exact (retryTest_replies _ _).since rfl rfl rfl
  | arm k x rest hc hq => exact (armed_replies _ _ _).since rfl rfl rfl

/-- The reset input, counted down at every wait point, is no part of a reply. -/
theorem Replies.with_rst {s t : State} (h : Replies s t) (r : Option Nat) : Replies s { t with rst := r } := by
  cases h with
  | goesOn es ho hr he hf => exact .goesOn es ho hr he hf
  | answers es ho hi hr => exact .answers es ho hi hr
  | refuses st e h hi hh hr => exact .refuses st e h hi hh hr

theorem Replies.then_settle {s t : State} (h : Replies s t) : Replies s (settle t) := by
  refine settle_induction (P := Replies s) ?_ h
  intro t u hst ha
  obtain ⟨-, v, hv, rfl⟩ := advance_pass ha
  exact (hst.trans hv.not_idle hv.replies).with_rst _

theorem settle_replies (s : State) : Replies s (settle s) :=
  Replies.then_settle (.silent rfl rfl rfl)

/-! ### The instructions -/

theorem guardedSend_replies (op : SendCmd) (r : Request) {s : State} (held : s.events = []) :
    Replies s (if s.terminal then respond .rejected (emit (.terminalReject op) s) else settle (queueSend op r s)) := by
  split
  · exact respond_refusal_replies (.rejected op) held
  · exact (queueSend_replies op r held).then_settle

theorem setMode_replies (m : Mode) {s : State} (held : s.events = []) :
    Replies s (if legalEdge s.mode m then respond .ok { s with mode := m }
      else respond .badEdge (emit (.illegalModeEdge s.mode m) s)) := by
  split
  · exact (respond_ok_replies _).since rfl rfl rfl
  · exact respond_refusal_replies (.badEdge _ m) held

/-- A command runs from its acceptance on, with no event held (30_encoding.md R73). -/
theorem atIdle_replies {s t : State} {run : State → State} (h : atIdle s run = .next t)
    (hrun : ∀ u : State, u.events = [] → Replies u (run u)) : Replies (accept s) t := by
  obtain ⟨-, rfl⟩ := atIdle_next h
  exact hrun (accept s) rfl

theorem exec_command_replies {w : Byte} {i : Instr} {s t : State} (hd : decodeCommand w = .ok i)
    (h : exec i s = .next t) : Replies (accept s) t := by
  obtain rfl | rfl | rfl | rfl | ⟨m, rfl⟩ := decodeCommand_cases hd
  · rw [exec_tick_eq] at h
    exact atIdle_replies h fun u _ => (settle_replies _).since rfl rfl rfl
  · rw [exec_unableToArm_eq] at h
    exact atIdle_replies h fun u hu => (queueSend_replies _ _ hu).then_settle
  · rw [exec_disarmed_eq] at h
    exact atIdle_replies h fun u hu => guardedSend_replies .disarmed _ hu
  · rw [exec_strike_eq] at h
    exact atIdle_replies h fun u hu => guardedSend_replies .strike _ hu
  · rw [exec_setMode_eq] at h
    exact atIdle_replies h fun u hu => setMode_replies m hu

theorem rejectWord_replies (w : Byte) (s : State) : Replies (accept s) (rejectWord w s) :=
  respond_refusal_replies (.illegal w) rfl

theorem forward_replies (type : Byte) (m : Msg) (s : State) :
    Replies (keepForward (Forwarded.of type m) s) (forward type m s) :=
  (retryCheck_replies _).since rfl rfl rfl

/-! ### One step -/

/-- `u` is the state from which the step at `s` replies: nothing is answered yet, and it holds the events of `s` or none, and
the packet of `s`, none, or at a dispatch the one just received. -/
structure Enters (s u : State) : Prop where
  rsps : u.rsps = s.rsps
  events : u.events = s.events ∨ u.events = []
  fwd : u.fwd = s.fwd ∨ u.fwd = none ∨ ∃ pkt, s.ctl = .dispatch pkt

theorem Enters.refl (s : State) : Enters s s := ⟨rfl, .inl rfl, .inl rfl⟩

theorem Enters.taken (rest : List Byte) (s : State) : Enters s (accept { s with cmdQ := rest }) :=
  ⟨rfl, .inr rfl, .inr (.inl rfl)⟩

theorem Enters.forwarding {s : State} {pkt : Packet} (hc : s.ctl = .dispatch pkt) (f : Forwarded) :
    Enters s (keepForward f s) :=
  ⟨rfl, .inl rfl, .inr (.inr ⟨pkt, hc⟩)⟩

theorem step_replies {s t : State} (h : step s = .next t) : ∃ u, Enters s u ∧ Replies u t := by
  by_cases hr : s.rst = some 0
  · cases (step_reset hr).symm.trans h
    exact ⟨accept s, .taken s.cmdQ s, .silent (hardReset_rsps s) rfl rfl⟩
  obtain ⟨-, -, rfl⟩ | ⟨w, rest, i, -, -, hd, he⟩ | ⟨w, rest, -, -, rfl⟩ | ⟨pkt, i, hc, hd, he⟩ | ⟨pkt, hc, rfl⟩ |
    ⟨-, -, rfl⟩ := step_cases hr h
  · exact ⟨t, .refl t, .silent rfl rfl rfl⟩
  · exact ⟨_, .taken rest s, exec_command_replies hd he⟩
  · exact ⟨_, .taken rest s, rejectWord_replies w _⟩
  · obtain ⟨k, -, rfl⟩ := decodePacket_cases hd
    obtain ⟨-, rfl⟩ | ⟨-, rfl⟩ := exec_ofKind_cases he
    · exact ⟨s, .refl s, (ackHandle_replies _ _).since rfl rfl rfl⟩
    · exact ⟨_, .forwarding hc _, forward_replies _ _ s⟩
  · exact ⟨_, .forwarding hc _, forward_replies _ _ s⟩
  · exact ⟨s, .refl s, settle_replies s⟩

/-! ### What a response holds -/

theorem Replies.at_most_one {s t : State} (h : Replies s t) :
    t.rsps = s.rsps ∨ ∃ r, t.rsps = s.rsps ++ [r] ∧ r.fwd = s.fwd := by
  cases h with
  | goesOn es ho hr he hf => exact .inl hr
  | answers es ho hi hr => exact .inr ⟨_, hr, rfl⟩
  | refuses st e h hi hh hr => exact .inr ⟨_, hr, rfl⟩

/-- Under the invariant a packet is held only in a TICK that has dispatched it, or is dispatching it (30_encoding.md R74). -/
theorem Enters.forwards_in_tick {s u : State} (h : Enters s u) (hs : Inv s) (hf : u.fwd ≠ none) :
    s.ctl ≠ .idle ∧ ∀ op, s.ctl.sendFor ≠ some (.request op) := by
  obtain e | e | ⟨pkt, hc⟩ := h.fwd
  · rw [e] at hf
    exact ⟨fun hc => hf (hs.idle_clear hc).2, fun op hop => hf (hs.request_forwards_nothing op hop)⟩
  · contradiction
  · rw [hc]
    exact ⟨nofun, nofun⟩

/-- Settles O53: a run answers once at most, with the packet it held, and under the invariant only a TICK holds one. -/
theorem atMostOneResponsePerStep : Obligations.AtMostOneResponsePerStep := by
  intro s t h
  obtain ⟨u, entered, replied⟩ := step_replies h
  obtain e | ⟨r, hr, hf⟩ := replied.at_most_one
  · exact .inl (e.trans entered.rsps)
  · exact .inr ⟨r, by rw [hr, entered.rsps], fun hs hne => entered.forwards_in_tick hs (hf ▸ hne)⟩

/-- Under the invariant the events held are ordinary ones. -/
theorem Enters.held_ordinary {s u : State} (h : Enters s u) (hs : Inv s) : ∀ e ∈ u.events, e.ordinary := by
  obtain e | e := h.events
  · rw [e]
    exact hs.running_events
  · simp [e]

/-- A status and the codes of the events that the tables let go with it (30_encoding.md R73, 60_exceptions.md R190). -/
def Response.byTables (r : Response) : Prop :=
  (r.statusCode = 0#3 ∧ ∀ c ∈ r.eventCodes, c < 7 ∨ 10 < c) ∨ (r.statusCode = 1#3 ∧ r.eventCodes = [7]) ∨
  (r.statusCode = 2#3 ∧ r.eventCodes = [8]) ∨ (r.statusCode = 3#3 ∧ r.eventCodes = [9]) ∨
  (r.statusCode = 4#3 ∧ r.eventCodes = [10])

theorem byTables_of_ok {es : List Event} (h : ∀ e ∈ es, e.ordinary) (f : Option Forwarded) :
    (Response.mk .ok es f).byTables :=
  .inl ⟨rfl, List.forall_mem_map.2 h⟩

theorem Refuses.byTables {st : Status} {e : Event} (h : Refuses st e) (f : Option Forwarded) :
    (Response.mk st [e] f).byTables := by
  cases h with
  | busy => exact .inr (.inl ⟨rfl, rfl⟩)
  | rejected op => exact .inr (.inr (.inl ⟨rfl, rfl⟩))
  | badEdge m m' => exact .inr (.inr (.inr (.inl ⟨rfl, rfl⟩)))
  | illegal w => exact .inr (.inr (.inr (.inr ⟨rfl, rfl⟩)))

theorem Replies.byTables {s t : State} {r : Response} (h : Replies s t) (held : ∀ e ∈ s.events, e.ordinary)
    (hr : t.rsps = s.rsps ++ [r]) : r.byTables := by
  cases h with
  | goesOn es ho hr' he hf => simp [hr'] at hr
  | answers es ho hi hr' =>
    cases List.append_cancel_left (hr'.symm.trans hr)
    exact byTables_of_ok (List.forall_mem_append.2 ⟨held, ho⟩) _
  | refuses st e h hi hh hr' =>
    cases List.append_cancel_left (hr'.symm.trans hr)
    exact h.byTables _

/-- Settles O60: the codes are those of the two tables, and a run answers OK with ordinary events or refuses with one. -/
theorem responseCodesFollowTheTables : Obligations.ResponseCodesFollowTheTables := by
  refine ⟨⟨rfl, rfl, rfl, rfl, rfl⟩, ?_, ?_⟩
  · exact fun _ _ _ _ _ _ _ _ _ => ⟨rfl, rfl, rfl, rfl, rfl, rfl, rfl, rfl, rfl, rfl, rfl, rfl, rfl⟩
  · intro s t r hs h hr
    obtain ⟨u, entered, replied⟩ := step_replies h
    exact replied.byTables (entered.held_ordinary hs) (by rw [hr, entered.rsps])

end Sys2Proof.Machine
end

section
/-! SUPPORT. The checksum as a number, DECODE by its tests, the fields of an encoded frame and its corruption by one byte
(40_frame_codec.md R90 to R98). -/

namespace Sys2Proof

/-! ### The checksum unit (40_frame_codec.md R90 to R92, R98) -/

theorem zeroExtend_toNat (b : Byte) : (b.zeroExtend 16).toNat = b.toNat :=
  BitVec.toNat_setWidth_of_le (by decide)

theorem zeroExtend_inj {a b : Byte} (h : a.zeroExtend 16 = b.zeroExtend 16) : a = b :=
  BitVec.eq_of_toNat_eq (by rw [← zeroExtend_toNat a, h, zeroExtend_toNat])

theorem chkSum_toNat (bytes : List Byte) : (chkSum bytes).toNat = (bytes.map BitVec.toNat).sum % 65536 := by
  induction bytes with
  | nil => rfl
  | cons x l ih =>
    rw [chkSum_cons, BitVec.toNat_add, ih, zeroExtend_toNat, List.map_cons, List.sum_cons]
    exact Nat.add_mod_mod ..

/-- A sum of naturals does not depend on their order. -/
theorem chkSum_perm {a b : List Byte} (h : a.Perm b) : chkSum a = chkSum b :=
  BitVec.eq_of_toNat_eq (by rw [chkSum_toNat, chkSum_toNat, (h.map BitVec.toNat).sum_eq])

theorem chkVerify_iff_add_mod (bytes : List Byte) (c : Half) :
    chkVerify bytes c = true ↔ ((chkSum bytes).toNat + c.toNat) % 65536 = 0xFFFF := by
  rw [chkVerify, beq_iff_eq, ← BitVec.toNat_inj, BitVec.toNat_add]
  rfl

theorem chkVerify_iff_eq_chkGen (bytes : List Byte) (c : Half) : chkVerify bytes c = true ↔ c = chkGen bytes := by
  rw [chkVerify, beq_iff_eq, chkGen, BitVec.eq_sub_iff_add_eq, BitVec.add_comm]

theorem chkGen_toNat (bytes : List Byte) : (chkGen bytes).toNat = (0xFFFF - (chkSum bytes).toNat) % 65536 := by
  have := (chkSum bytes).isLt
  rw [chkGen, BitVec.toNat_sub, BitVec.toNat_ofNat]
  omega

theorem chkGen_inj {a b : List Byte} : chkGen a = chkGen b ↔ chkSum a = chkSum b :=
  BitVec.sub_right_inj ..

/-- Settles O1: by induction on the sequence, each byte one term of the sum. -/
theorem checksumIsSumModulo65536 : Obligations.ChecksumIsSumModulo65536 :=
  chkSum_toNat

/-- Settles O2: the three readings of the unit, one lemma each. -/
theorem checksumGenerateAndVerify : Obligations.ChecksumGenerateAndVerify :=
  fun bytes c => ⟨chkGen_toNat bytes, chkVerify_iff_add_mod bytes c, chkVerify_iff_eq_chkGen bytes c⟩

/-- Settles O3: validity of a checksum depends on the sum only, and the sum on no order. -/
theorem reorderingInvisibleToChecksum : Obligations.ReorderingInvisibleToChecksum :=
  fun _ _ h => ⟨chkSum_perm h, fun c => by rw [chkVerify, chkVerify, chkSum_perm h]⟩

/-! ### An encoded frame (30_encoding.md R60 to R65, 40_frame_codec.md R95, R97) -/

/-- Settles O5: the whole frame decodes, as its payload carries its own bound. -/
theorem frameRoundTrip : Obligations.FrameRoundTrip :=
  fun addr dest type seq pay => decodeFrame_frameBytes addr dest type seq pay.bound

/-- Settles O4: the fields lie where DECODE reads them, the checksum right after the body. -/
theorem encodePlacesEveryField : Obligations.EncodePlacesEveryField := by
  intro addr dest type seq pay f n
  have length : (BitVec.ofNat 8 (6 + n)).toNat = 6 + n := frameLength_toNat pay.bound
  have fields := packetOf_frameBytes addr dest type seq pay.bound
  have body : (frameBody addr dest type seq pay.bytes).length = n + 7 := Machine.frameBody_length ..
  rw [Packet.mk.injEq] at fields
  obtain ⟨-, atSource, atDest, atType, atSeq, atPayload⟩ := fields
  refine ⟨Machine.frameBytes_length .., length, atSource, atDest, atType, atSeq, ?_, ?_⟩
  · rwa [packetOf, frameLength_toNat pay.bound, Nat.add_sub_cancel_left] at atPayload
  · rw [← body]
    exact (memRead16_sealBody _).trans (congrArg chkGen (take_sealBody _).symm)

/-! ### DECODE by its tests, in their order (40_frame_codec.md R96) -/

theorem decodeFrame_eq_shortRead {len : Byte} {rest : List Byte} (hl : (len :: rest).length < len.toNat + 3) :
    decodeFrame (len :: rest) = .error (.shortRead len (len :: rest).length) := by
  rw [decodeFrame, if_pos hl]

theorem decodeFrame_eq_checksumError {buf rest : List Byte} {len : Byte} (hb : buf = len :: rest)
    (hl : len.toNat + 3 ≤ buf.length)
    (hv : ¬ chkVerify (buf.take (len.toNat + 1)) (memRead16 buf (len.toNat + 1)) = true) :
    decodeFrame buf = .error (.checksumError (chkSum (buf.take (len.toNat + 1))) (memRead16 buf (len.toNat + 1))) := by
  subst hb
  rw [decodeFrame, if_neg (by omega), if_pos (eq_false_of_ne_true hv)]

theorem decodeFrame_eq_lengthError {buf rest : List Byte} {len : Byte} (hb : buf = len :: rest)
    (hl : len.toNat + 3 ≤ buf.length)
    (hv : chkVerify (buf.take (len.toNat + 1)) (memRead16 buf (len.toNat + 1)) = true) (h6 : len.toNat < 6) :
    decodeFrame buf = .error (.lengthError len) := by
  subst hb
  rw [decodeFrame, if_neg (by omega), if_neg (ne_false_of_eq_true hv), if_pos h6]

/-- Settles O8: one equation of DECODE per clause, its checksum test read as a sum of numbers. -/
theorem decodeJudgesInOrder : Obligations.DecodeJudgesInOrder := by
  refine ⟨rfl, fun len rest => ?_⟩
  intro buf s c
  have verified : chkVerify (buf.take (len.toNat + 1)) (memRead16 buf (len.toNat + 1)) = true ↔
      (s.toNat + c.toNat) % 65536 = 0xFFFF := chkVerify_iff_add_mod _ _
  refine ⟨decodeFrame_eq_shortRead, fun hl hv => ?_, fun hl hv h6 => ?_, fun hl hv h6 => ?_⟩
  · exact decodeFrame_eq_checksumError rfl hl (mt verified.1 hv)
  · exact decodeFrame_eq_lengthError rfl hl (verified.2 hv) h6
  · exact decodeFrame_eq_ok rfl hl (verified.2 hv) h6

/-! ### Bytes after the frame (40_frame_codec.md R96, 41_bus_transport.md R111) -/

theorem byteAt_append_left {buf : List Byte} {i : Nat} (h : i < buf.length) (extra : List Byte) :
    byteAt (buf ++ extra) i = byteAt buf i :=
  List.getD_append _ _ _ _ h

theorem memRead16_append_left {buf : List Byte} {i : Nat} (h : i + 1 < buf.length) (extra : List Byte) :
    memRead16 (buf ++ extra) i = memRead16 buf i := by
  rw [memRead16, byteAt_append_left (by omega), byteAt_append_left h, memRead16]

theorem packetOf_append_left {len : Byte} {buf : List Byte} (hl : len.toNat + 3 ≤ buf.length) (h6 : 6 ≤ len.toNat)
    (extra : List Byte) : packetOf len (buf ++ extra) = packetOf len buf := by
  have payload : ((buf ++ extra).drop 7).take (len.toNat - 6) = (buf.drop 7).take (len.toNat - 6) := by
    rw [List.drop_append_of_le_length (by omega), List.take_append_of_le_length (by rw [List.length_drop]; omega)]
  rw [packetOf, payload, memRead16_append_left (by omega), memRead16_append_left (by omega), byteAt_append_left (by omega),
    byteAt_append_left (by omega), packetOf]

/-- Settles O7: no test and no field of DECODE reaches past the checksum, whichever test decides. -/
theorem decodeIgnoresSurplusBytes : Obligations.DecodeIgnoresSurplusBytes := by
  intro len bytes extra h
  have hb : len :: bytes ++ extra = len :: (bytes ++ extra) := List.cons_append
  have hl : len.toNat + 3 ≤ (len :: bytes).length := Nat.succ_le_succ h
  have hl' : len.toNat + 3 ≤ (len :: bytes ++ extra).length := hl.trans (by simp)
  have body : (len :: bytes ++ extra).take (len.toNat + 1) = (len :: bytes).take (len.toNat + 1) :=
    List.take_append_of_le_length (by omega)
  have sum : memRead16 (len :: bytes ++ extra) (len.toNat + 1) = memRead16 (len :: bytes) (len.toNat + 1) :=
    memRead16_append_left (by omega) extra
  by_cases hv : chkVerify ((len :: bytes).take (len.toNat + 1)) (memRead16 (len :: bytes) (len.toNat + 1)) = true
  · have hv' : chkVerify ((len :: bytes ++ extra).take (len.toNat + 1))
        (memRead16 (len :: bytes ++ extra) (len.toNat + 1)) = true := by rwa [body, sum]
    rcases Nat.lt_or_ge len.toNat 6 with h6 | h6
    · rw [decodeFrame_eq_lengthError rfl hl hv h6, decodeFrame_eq_lengthError hb hl' hv' h6]
    · rw [decodeFrame_eq_ok rfl hl hv h6, decodeFrame_eq_ok hb hl' hv' h6, packetOf_append_left hl h6]
  · rw [decodeFrame_eq_checksumError rfl hl hv, decodeFrame_eq_checksumError hb hl' (by rwa [body, sum]), body, sum]

/-! ### One changed byte (40_frame_codec.md R98 a) -/

/-- A byte moves the sum by less than 65536, so two different bytes move it differently. -/
theorem chkSum_set_ne {l : List Byte} {i : Nat} (h : i < l.length) {b : Byte} (hb : b ≠ l[i]) :
    chkSum (l.set i b) ≠ chkSum l := by
  intro same
  have sums := chkSum_set l i h b
  rw [same, BitVec.add_right_inj] at sums
  exact hb (zeroExtend_inj sums.symm)

/-- A body as long as its length byte says, before two bytes that are not its checksum. -/
theorem decodeFrame_body_checksumError {len c0 c1 : Byte} {rest : List Byte} (hl : rest.length = len.toNat)
    (hc : le16 c0 c1 ≠ chkGen (len :: rest)) :
    ∃ s c, decodeFrame (len :: rest ++ [c0, c1]) = .error (.checksumError s c) := by
  have body : (len :: rest ++ [c0, c1]).take (len.toNat + 1) = len :: rest := by
    rw [← hl]
    exact List.take_left (l₁ := len :: rest)
  have sum : memRead16 (len :: rest ++ [c0, c1]) (len.toNat + 1) = le16 c0 c1 := by
    simp [memRead16, byteAt, ← hl]
  refine ⟨_, _, decodeFrame_eq_checksumError rfl (by simp [hl]) ?_⟩
  rwa [body, sum, chkVerify_iff_eq_chkGen]

/-- The change is in the body, where it moves the sum, or in the checksum, which determines its two bytes. -/
theorem decodeFrame_set_checksumError {len c0 c1 : Byte} {rest : List Byte} (hl : rest.length = len.toNat)
    (hc : le16 c0 c1 = chkGen (len :: rest)) {i : Nat} {b : Byte} (hi : i + 1 < (len :: rest ++ [c0, c1]).length)
    (hb : b ≠ byteAt (len :: rest ++ [c0, c1]) (i + 1)) :
    ∃ s c, decodeFrame ((len :: rest ++ [c0, c1]).set (i + 1) b) = .error (.checksumError s c) := by
  have size : (len :: rest ++ [c0, c1]).length = rest.length + 3 := by simp
  obtain inBody | rfl | rfl : i < rest.length ∨ i = rest.length ∨ i = rest.length + 1 := by omega
  · have frame : (len :: rest ++ [c0, c1]).set (i + 1) b = len :: rest.set i b ++ [c0, c1] :=
      List.set_append_left (s := len :: rest) _ _ (Nat.succ_lt_succ inBody)
    have changed : b ≠ (len :: rest)[i + 1]'(Nat.succ_lt_succ inBody) := by
      simpa [byteAt, List.getElem?_append_left, inBody] using hb
    rw [frame]
    refine decodeFrame_body_checksumError (by rwa [List.length_set]) ?_
    rw [hc, Ne, chkGen_inj]
    exact (chkSum_set_ne _ changed).symm
  · have frame : (len :: rest ++ [c0, c1]).set (rest.length + 1) b = len :: rest ++ [b, c1] := by simp
    have changed : b ≠ c0 := by simpa [byteAt] using hb
    rw [frame]
    exact decodeFrame_body_checksumError hl fun same => changed (le16_inj (same.trans hc.symm)).1
  · have frame : (len :: rest ++ [c0, c1]).set (rest.length + 1 + 1) b = len :: rest ++ [c0, b] := by simp
    have changed : b ≠ c1 := by simpa [byteAt] using hb
    rw [frame]
    exact decodeFrame_body_checksumError hl fun same => changed (le16_inj (same.trans hc.symm)).2

/-- An encoded frame as its length byte, as many bytes as that says, and the two bytes of their checksum. -/
theorem frameBytes_eq_body_append (a d : Half) (ty q : Byte) {p : List Byte} (hp : p.length ≤ Config.maxPayload) :
    ∃ (len c0 c1 : Byte) (rest : List Byte), frameBytes a d ty q p = len :: rest ++ [c0, c1] ∧
      rest.length = len.toNat ∧ le16 c0 c1 = chkGen (len :: rest) := by
  refine ⟨BitVec.ofNat 8 (6 + p.length), _, _, [lo a, hi a, lo d, hi d, ty, q] ++ p, rfl, ?_, le16_lo_hi _⟩
  rw [frameLength_toNat hp, List.length_append]
  rfl

/-- Settles O6: an encoded frame has the shape in which a changed byte is detected wherever it lies. -/
theorem singleByteCorruptionDetected : Obligations.SingleByteCorruptionDetected := by
  intro addr dest type seq pay i b h1 hi hb
  obtain ⟨len, c0, c1, rest, frame, length, sum⟩ := frameBytes_eq_body_append addr dest type seq pay.bound
  obtain ⟨j, rfl⟩ := Nat.exists_eq_add_of_le' h1
  rw [encodeFrame, frame] at hi hb ⊢
  exact decodeFrame_set_checksumError length sum hi hb

end Sys2Proof
end

section
/-! SUPPORT. The statements of 41_bus_transport.md: a whole TRANSMIT after an idle sample (R115, R116), and a whole POLL
from the end of activity as DECODE of the burst (R110, R111). -/

namespace Sys2Proof.Machine

/-! ### TRANSMIT -/

/-- A transmission from the rise of SEND_INTENT to the time sample after it (41_bus_transport.md R115, R116). -/
theorem settle_beginTransmit (k : Sender) {s : State} (hr : s.rst = none) (hb : s.txbuf ≠ []) :
    settle (beginTransmit k s) = settle { s with
      sendIntent := false
      rxbuf := []
      ctl := .timeSample (.arm k)
      trace := s.trace ++ transmitCalls s.cfg.settleTime s.txbuf } := by
  refine (settle_txSettle (s := beginTransmit k s) rfl hr).trans
    (Eq.trans (settle_txByte rfl hr (List.length_pos_iff.2 hb)) ?_)
  simp only [beginTransmit, setIntent, State.call, goto, transmitCalls, List.drop_zero, List.append_assoc,
    List.cons_append, List.nil_append]

/-- Settles O35: the one sample finds the line idle, and TRANSMIT runs from it to the time sample. -/
theorem idleSampleTransmitsWholeFrame : Obligations.IdleSampleTransmitsWholeFrame := by
  intro s k ls hc hr hb hl
  rw [settle_arbSample_idle hc hr hl]
  exact settle_beginTransmit k hr hb

/-! ### POLL's end, by DECODE's result -/

/-- POLL's caller is given what DECODE returned: the packet, or Nothing with the event of the error
(41_bus_transport.md R110, R111). -/
def pollResult (p : Poller) (r : Except RxError Packet) (s : State) : State :=
  match r with
  | .ok pkt => pollDone p (some pkt) s
  | .error e => pollDone p none (emit (rxEvent e) s)

theorem pollResult_goto (p : Poller) (r : Except RxError Packet) (c : Ctl) (s : State) :
    pollResult p r (goto c s) = pollResult p r s := by
  cases r with
  | ok pkt => exact pollDone_goto p (some pkt) c s
  | error e => exact pollDone_goto p none c (emit (rxEvent e) s)

theorem pollDecode_eq_pollResult (p : Poller) (buf : List Byte) (s : State) :
    pollDecode p buf s = pollResult p (decodeFrame buf) (flush (sumBytes (summed buf) s)) := by
  unfold pollDecode
  cases decodeFrame buf <;> rfl

/-! ### The byte reads of one POLL -/

theorem decodeFrame_take {len : Byte} {rest : List Byte} (h : len.toNat + 2 ≤ rest.length) :
    decodeFrame (len :: rest.take (len.toNat + 2)) = decodeFrame (len :: rest) := by
  have taken : len.toNat + 2 ≤ (rest.take (len.toNat + 2)).length := by rw [List.length_take]; omega
  have surplus := decodeIgnoresSurplusBytes len _ (rest.drop (len.toNat + 2)) taken
  rwa [List.cons_append, List.take_append_drop, eq_comm] at surplus

theorem summed_take (len : Byte) (rest : List Byte) :
    summed (len :: rest.take (len.toNat + 2)) = summed (len :: rest) := by
  change len :: (rest.take (len.toNat + 2)).take len.toNat = len :: rest.take len.toNat
  rw [List.take_take, Nat.min_eq_left (Nat.le_add_right _ _)]

/-- RXBUF has been read for one frame: the reads of 41_bus_transport.md R110 are made, the bytes DECODE sums are summed, and
the rest is discarded (R113). -/
def State.afterRead (s : State) : State :=
  { s with
    rxbuf := []
    chkAcc := sumAfterRead s.chkAcc s.rxbuf
    trace := s.trace ++ readCalls s.cfg.readTimeout s.rxbuf }

theorem State.afterRead_of_short {s : State} {len : Byte} {rest : List Byte} (hq : s.rxbuf = len :: rest)
    (hl : (len :: rest).length < len.toNat + 3) :
    s.afterRead = { s with
      rxbuf := []
      trace := s.trace ++ ((len :: rest).map (readCall s.cfg.readTimeout) ++ [.rxByte s.cfg.readTimeout none]) } := by
  have sum : sumAfterRead s.chkAcc (len :: rest) = s.chkAcc := if_pos hl
  have reads : readCalls s.cfg.readTimeout (len :: rest) =
    (len :: rest).map (readCall s.cfg.readTimeout) ++ [.rxByte s.cfg.readTimeout none] := if_pos hl
  rw [State.afterRead, hq, sum, reads]

theorem State.afterRead_of_full {s : State} {len : Byte} {rest : List Byte} (hq : s.rxbuf = len :: rest)
    (hl : ¬ (len :: rest).length < len.toNat + 3) :
    s.afterRead = { s with
      rxbuf := []
      chkAcc := chkSum (summed (len :: rest))
      trace := s.trace ++ (len :: rest.take (len.toNat + 2)).map (readCall s.cfg.readTimeout) } := by
  have sum : sumAfterRead s.chkAcc (len :: rest) = chkSum (summed (len :: rest)) := if_neg hl
  have reads : readCalls s.cfg.readTimeout (len :: rest) =
    (len :: rest.take (len.toNat + 2)).map (readCall s.cfg.readTimeout) := if_neg hl
  rw [State.afterRead, hq, sum, reads]

/-! ### POLL is DECODE of RXBUF (41_bus_transport.md R111) -/

theorem settle_rxLen_of_short (p : Poller) {s : State} {len : Byte} {rest : List Byte} (hr : s.rst = none)
    (hq : s.rxbuf = len :: rest) (hl : (len :: rest).length < len.toNat + 3) :
    settle (goto (.rxLen p) s) = settle (pollResult p (decodeFrame (len :: rest)) s.afterRead) := by
  have size : [len].length + rest.length = (len :: rest).length := Nat.add_comm ..
  refine (settle_rxLen_some (s := goto (.rxLen p) s) rfl hr hq).trans
    (Eq.trans (settle_rxBody_short rfl hr (size.trans_lt hl)) (congrArg settle ?_))
  rw [decodeFrame_eq_shortRead hl, State.afterRead_of_short hq hl, ← pollResult_goto p _ (.rxBody p len [len])]
  simp [pollResult, rxEvent, pollRaise, flush, goto, State.call, Nat.add_comm]

theorem settle_rxLen_of_full (p : Poller) {s : State} {len : Byte} {rest : List Byte} (hr : s.rst = none)
    (hq : s.rxbuf = len :: rest) (hl : ¬ (len :: rest).length < len.toNat + 3) :
    settle (goto (.rxLen p) s) = settle (pollResult p (decodeFrame (len :: rest)) s.afterRead) := by
  have enough : len.toNat + 2 ≤ rest.length := by rw [List.length_cons] at hl; omega
  have size : [len].length + (len.toNat + 1 + 1) = len.toNat + 3 := Nat.add_comm ..
  refine (settle_rxLen_some (s := goto (.rxLen p) s) rfl hr hq).trans
    (Eq.trans (settle_rxBody_full rfl hr size enough) (congrArg settle ?_))
  rw [State.afterRead_of_full hq hl, ← pollResult_goto p _ (.rxBody p len [len]), pollDecode_eq_pollResult]
  simp [decodeFrame_take enough, summed_take, flush, sumBytes, goto, State.call]

/-- POLL from its first byte read on: no length byte, too few bytes, or all of them. -/
theorem settle_rxLen (p : Poller) {s : State} (hr : s.rst = none) :
    settle (goto (.rxLen p) s) = settle (pollResult p (decodeFrame s.rxbuf) s.afterRead) := by
  match hq : s.rxbuf with
  | [] =>
    refine (settle_rxLen_none (s := goto (.rxLen p) s) rfl hr hq).trans (congrArg settle ?_)
    rw [← pollResult_goto p _ (.rxLen p), State.afterRead, hq]
    rfl
  | len :: rest =>
    by_cases hl : (len :: rest).length < len.toNat + 3
    · exact settle_rxLen_of_short p hr hq hl
    · exact settle_rxLen_of_full p hr hq hl

/-- POLL from the end of activity on, when a burst has come: DECODE's result is all its caller sees of the reads. -/
theorem settle_burst {s : State} {p : Poller} {bs : List Byte} {rest : List Burst} (hc : s.ctl = .rxWaitEnd p)
    (hr : s.rst = none) (hb : s.burstQ = .bytes bs :: rest) :
    settle s = settle (pollResult p (decodeFrame (s.rxbuf ++ bs))
      (State.call { s with burstQ := rest, rxbuf := s.rxbuf ++ bs }
        (.waitActivityEnd s.cfg.activityTimeout true)).afterRead) :=
  (settle_rxWaitEnd_bytes hc hr hb).trans (settle_rxLen p hr)

/-- Settles O36: DECODE's result is given to either caller in one way, and a burst that times out reads no byte. -/
theorem pollIsDecodeOfTheBurst : Obligations.PollIsDecodeOfTheBurst := by
  intro s p rest hc hr
  refine ⟨fun bs hb => ⟨fun pkt accepted => ?_, fun e refused => ?_⟩, fun hb => settle_rxWaitEnd_timedOut hc hr hb⟩
  · rw [settle_burst hc hr hb, accepted]
    rfl
  · rw [settle_burst hc hr hb, refused]
    rfl

end Sys2Proof.Machine
end

section
/-! SUPPORT. The statements of 42_backoff_arbiter.md: a busy sample, its drain and the backoff after it (R125, R126), and
arbitration on a line that stays busy (R128). -/

namespace Sys2Proof.Machine

/-! ### After a drain: the draw, the sleep and the next sample -/

/-- Whatever a drain has received, SEND_GATED records whether it was a packet, draws and sleeps its backoff, and samples the
line again (42_backoff_arbiter.md R125, R126). -/
theorem settle_drained (k : Sender) (r : Option Packet) {s : State} {x : Nat} {ds : List Nat} (hr : s.rst = none)
    (hd : s.drawQ = x :: ds) :
    settle (pollDone (.drain k) r s) = settle { s with
      ctl := .arbSample k
      drawQ := ds
      events := s.events ++ [.drained r.isSome]
      trace := s.trace ++ [.drawBackoff (clampDraw s.cfg x), .sleep (clampDraw s.cfg x)] } := by
  refine Eq.trans (settle_arbDraw rfl hr hd) ?_
  dsimp only [pollDone, emit, goto, State.call]
  refine Eq.trans (settle_arbSleep rfl hr) (congrArg settle ?_)
  simp only [goto, State.call, List.append_assoc, List.cons_append, List.nil_append]

/-- Settles O37: the drain ends with Nothing at its own sample, and the backoff follows as after any drain. -/
theorem busySampleIdleDrainBacksOff : Obligations.BusySampleIdleDrainBacksOff := by
  intro s k ls x ds hc hr hl hd
  obtain ⟨atLeast, atMost⟩ := clampDraw_bounds s.cfg x
  refine ⟨clampDraw s.cfg x, atLeast, atMost, fun legal => clampDraw_legal legal.1 legal.2, ?_⟩
  refine (settle_arbSample_busy hc hr hl).trans ?_
  dsimp only [emit, goto, State.call]
  refine Eq.trans (settle_rxSample_idle rfl hr rfl) ?_
  dsimp only [State.call]
  refine Eq.trans (settle_drained k none hr hd) (congrArg settle ?_)
  simp only [← hc, Option.isSome_none, List.append_assoc, List.cons_append, List.nil_append]

/-- An accepted frame was read whole, so DECODE's bytes are summed (10_state.md R24, 40_frame_codec.md R96). -/
theorem sumAfterRead_of_accepted {bs : List Byte} {pkt : Packet} (h : decodeFrame bs = .ok pkt) (old : Half) :
    sumAfterRead old bs = chkSum (summed bs) :=
  if_neg (Nat.not_lt.2 (decodeFrame_ok_length h))

/-- A busy sample whose drain finds activity, up to its end (42_backoff_arbiter.md R125). -/
theorem settle_arbSample_active {s : State} {k : Sender} {ls : List Bool} (hc : s.ctl = .arbSample k)
    (hr : s.rst = none) (hl : s.lineQ = true :: true :: ls) :
    settle s = settle { s with
      ctl := .rxWaitEnd (.drain k)
      lineQ := ls
      events := s.events ++ [.busBusy]
      trace := s.trace ++ [.lineActive true, .lineActive true] } := by
  refine (settle_arbSample_busy hc hr hl).trans ?_
  dsimp only [emit, goto, State.call]
  refine Eq.trans (settle_rxSample_active rfl hr rfl) (congrArg settle ?_)
  simp only [goto, State.call, List.append_assoc, List.cons_append, List.nil_append]

/-- Settles O38: POLL's end hands the drain a packet, of which only DRAINED tells; the backoff follows as after any
drain. -/
theorem drainedFrameIsDropped : Obligations.DrainedFrameIsDropped := by
  intro s k ls bs rest pkt x ds hc hr hl hb hd accepted
  refine (settle_arbSample_active hc hr hl).trans ?_
  refine Eq.trans (settle_burst rfl hr hb) ?_
  rw [accepted]
  refine Eq.trans (settle_drained k (some pkt) hr hd) (congrArg settle ?_)
  simp only [State.afterRead, State.call, sumAfterRead_of_accepted accepted, ← hc, Option.isSome_some, List.append_assoc,
    List.cons_append, List.nil_append]

/-! ### A line that stays busy -/

/-- The points of SEND_GATED before TRANSMIT (42_backoff_arbiter.md R125). -/
inductive Ctl.Arbitrating : Ctl → Prop where
  | sample (k : Sender) : Arbitrating (.arbSample k)
  | drainSample (k : Sender) : Arbitrating (.rxSample (.drain k))
  | drainWaitEnd (k : Sender) : Arbitrating (.rxWaitEnd (.drain k))
  | drainLen (k : Sender) : Arbitrating (.rxLen (.drain k))
  | drainBody (k : Sender) (len : Byte) (buf : List Byte) : Arbitrating (.rxBody (.drain k) len buf)
  | draw (k : Sender) : Arbitrating (.arbDraw k)
  | sleep (k : Sender) (d : Nat) : Arbitrating (.arbSleep k d)

/-- Each of them is inside SEND_GATED and not inside TRANSMIT. -/
theorem Ctl.Arbitrating.outside_transmit {c : Ctl} (h : c.Arbitrating) : c.sender ≠ none ∧ c.transmitting = false := by
  cases h <;> exact ⟨Option.some_ne_none _, rfl⟩

/-- From `s` to `t` no byte was sent and nothing answered, MODE and SEND_INTENT are as they were, and line answers were
only used up. -/
structure Silent (s t : State) : Prop where
  lineQ : t.lineQ ⊆ s.lineQ
  sent : sentBytes t.trace = sentBytes s.trace
  rsps : t.rsps = s.rsps
  mode : t.mode = s.mode
  sendIntent : t.sendIntent = s.sendIntent

theorem Silent.trans {s t u : State} (h : Silent s t) (g : Silent t u) : Silent s u where
  lineQ := List.Subset.trans g.lineQ h.lineQ
  sent := g.sent.trans h.sent
  rsps := g.rsps.trans h.rsps
  mode := g.mode.trans h.mode
  sendIntent := g.sendIntent.trans h.sendIntent

theorem goto_silent (c : Ctl) (s : State) : Silent s (goto c s) := ⟨List.Subset.refl _, rfl, rfl, rfl, rfl⟩

theorem emit_silent (e : Event) (s : State) : Silent s (emit e s) := ⟨List.Subset.refl _, rfl, rfl, rfl, rfl⟩

theorem flush_silent (s : State) : Silent s (flush s) := ⟨List.Subset.refl _, rfl, rfl, rfl, rfl⟩

theorem sumBytes_silent (bytes : List Byte) (s : State) : Silent s (sumBytes bytes s) :=
  ⟨List.Subset.refl _, rfl, rfl, rfl, rfl⟩

/-- Bursts and draws may be used up, and RXBUF filled and read. -/
theorem received_silent (bursts : List Burst) (draws : List Nat) (bytes : List Byte) (s : State) :
    Silent s { s with burstQ := bursts, drawQ := draws, rxbuf := bytes } :=
  ⟨List.Subset.refl _, rfl, rfl, rfl, rfl⟩

/-- Recording any env call but `env.tx_byte`, which alone puts a byte on the line. -/
theorem call_silent {c : EnvCall} (h : sentBytes [c] = []) (s : State) : Silent s (s.call c) where
  lineQ := List.Subset.refl _
  sent := by
    have split : sentBytes (s.trace ++ [c]) = sentBytes s.trace ++ sentBytes [c] := List.filterMap_append ..
    rw [State.call_trace, split, h, List.append_nil]
  rsps := rfl
  mode := rfl
  sendIntent := rfl

theorem pollDone_drain_silent (k : Sender) (r : Option Packet) (s : State) : Silent s (pollDone (.drain k) r s) :=
  (emit_silent _ s).trans (goto_silent _ _)

theorem pollRaise_drain_silent (k : Sender) (e : Event) (s : State) : Silent s (pollRaise (.drain k) e s) :=
  ((flush_silent s).trans (emit_silent e _)).trans (pollDone_drain_silent k none _)

theorem pollDecode_drain_silent (k : Sender) (buf : List Byte) (s : State) :
    Silent s (pollDecode (.drain k) buf s) := by
  have summing := sumBytes_silent (summed buf) s
  unfold pollDecode
  cases decodeFrame buf with
  | ok pkt => exact (summing.trans (flush_silent _)).trans (pollDone_drain_silent k _ _)
  | error e => exact summing.trans (pollRaise_drain_silent k _ _)

/-- What a drain has received does not change where it leads. -/
theorem pollDecode_drain_ctl (k : Sender) (buf : List Byte) (s : State) :
    (pollDecode (.drain k) buf s).ctl = .arbDraw k := by
  unfold pollDecode
  cases decodeFrame buf with
  | ok pkt => rfl
  | error e => rfl

/-- From `s` to `t` SEND_GATED has arbitrated and done no more. -/
structure HeldUp (s t : State) : Prop extends Silent s t where
  arbitrating : t.ctl.Arbitrating

/-- Arbitration goes on past every wait point, unless the line is sampled idle. -/
theorem Pass.heldUp {s t : State} (h : Pass s t) (ha : s.ctl.Arbitrating) (busy : ∀ b ∈ s.lineQ, b = true) :
    HeldUp s t := by
  have sampled {b : Bool} {rest : List Bool} (hq : s.lineQ = b :: rest) : Silent s { s with lineQ := rest } :=
    ⟨hq ▸ List.subset_cons_self b rest, rfl, rfl, rfl, rfl⟩
  have notIdle {rest : List Bool} (hq : s.lineQ = false :: rest) : False :=
    Bool.false_ne_true (busy false (hq ▸ List.mem_cons_self))
  cases h with
  | rxIdle p rest hc hq => exact (notIdle hq).elim
  | arbIdle k rest hc hq => exact (notIdle hq).elim
  | rxActive p rest hc hq =>
    cases hc ▸ ha with | drainSample k
    exact ⟨((sampled hq).trans (call_silent rfl _)).trans (goto_silent _ _), .drainWaitEnd k⟩
  | rxStuck p rest hc hq =>
    cases hc ▸ ha with | drainWaitEnd k
    exact ⟨((received_silent _ _ _ s).trans (call_silent rfl _)).trans (pollRaise_drain_silent k _ _), .draw k⟩
  | rxEnded p bs rest hc hq =>
    cases hc ▸ ha with | drainWaitEnd k
    exact ⟨((received_silent _ _ _ s).trans (call_silent rfl _)).trans (goto_silent _ _), .drainLen k⟩
  | rxNoLength p hc hq =>
    cases hc ▸ ha with | drainLen k
    exact ⟨(call_silent rfl s).trans (pollRaise_drain_silent k _ _), .draw k⟩
  | rxLength p b rest hc hq =>
    cases hc ▸ ha with | drainLen k
    exact ⟨((received_silent _ _ _ s).trans (call_silent rfl _)).trans (goto_silent _ _), .drainBody k _ _⟩
  | rxShort p len buf hc hq =>
    cases hc ▸ ha with | drainBody k
    exact ⟨(call_silent rfl s).trans (pollRaise_drain_silent k _ _), .draw k⟩
  | rxMore p len b buf rest hc hq hl =>
    cases hc ▸ ha with | drainBody k
    exact ⟨((received_silent _ _ _ s).trans (call_silent rfl _)).trans (goto_silent _ _), .drainBody k _ _⟩
  | rxLast p len b buf rest hc hq hl =>
    cases hc ▸ ha with | drainBody k
    refine ⟨((received_silent _ _ _ s).trans (call_silent rfl _)).trans (pollDecode_drain_silent k _ _), ?_⟩
    rw [pollDecode_drain_ctl]
    exact .draw k
  | arbBusy k rest hc hq =>
    exact ⟨(((sampled hq).trans (call_silent rfl _)).trans (emit_silent _ _)).trans (goto_silent _ _), .drainSample k⟩
  | arbDraw k x rest hc hq =>
    exact ⟨((received_silent _ _ _ s).trans (call_silent rfl _)).trans (goto_silent _ _), .sleep k _⟩
  | arbSlept k d hc => exact ⟨(call_silent rfl s).trans (goto_silent _ _), .sample k⟩
  | settled k hc => cases hc ▸ ha
  | txMore k i b hc hb hl => cases hc ▸ ha
  | txLast k i b hc hb hl => cases hc ▸ ha
  | txNone k i hc hb => cases hc ▸ ha
  | retryTest x rest hc hq => cases hc ▸ ha
  | arm k x rest hc hq => cases hc ▸ ha

/-- While every line answer is busy, a run that arbitrates never leaves arbitration (42_backoff_arbiter.md R128). -/
theorem HeldUp.then_settle {s t : State} (h : HeldUp s t) (busy : ∀ b ∈ s.lineQ, b = true) : HeldUp s (settle t) := by
  refine settle_induction (P := HeldUp s) (fun u v hu ha => ?_) h
  obtain ⟨-, w, hw, rfl⟩ := advance_pass ha
  obtain ⟨silent, arbitrating⟩ := hw.heldUp hu.arbitrating fun b hb => busy b (hu.lineQ hb)
  obtain ⟨lineQ, sent, rsps, mode, sendIntent⟩ := hu.toSilent.trans silent
  exact ⟨⟨lineQ, sent, rsps, mode, sendIntent⟩, arbitrating⟩

/-- With nothing pending, a sending command enters SEND_GATED (43_delivery_manager.md R136, R137). -/
theorem queueSend_heldUp (op : SendCmd) (r : Request) {s : State} (hp : s.pend = none) :
    HeldUp s (queueSend op r s) := by
  rw [queueSend_of_empty hp]
  exact ⟨⟨List.Subset.refl _, rfl, rfl, rfl, rfl⟩, .sample _⟩

/-- Outside the terminal mode each of the three sending commands runs QUEUE_SEND (44_node_session.md R156 to R158). -/
theorem exec_sending_runs_queueSend {i : Instr} (hi : i = .unableToArm ∨ i = .strike ∨ i = .disarmed) {s : State}
    (hc : s.ctl = .idle) (hm : s.mode ≠ .disarmed) :
    ∃ op r, exec i s = .next (settle (queueSend op r (accept s))) := by
  have guard : (accept s).terminal = false := beq_eq_false_iff_ne.2 hm
  obtain rfl | rfl | rfl := hi
  · exact ⟨_, _, (exec_unableToArm_eq s).trans (atIdle_of_idle hc _)⟩
  · exact ⟨.strike, toController .strike, by rw [exec_strike_eq, atIdle_of_idle hc, guard]; rfl⟩
  · exact ⟨.disarmed, toController .defused, by rw [exec_disarmed_eq, atIdle_of_idle hc, guard]; rfl⟩

/-- Settles O39: SEND_GATED is entered at its line sample, and only an idle sample lets it transmit. -/
theorem stuckBusyLineNeverTransmits : Obligations.StuckBusyLineNeverTransmits := by
  rintro s t i ⟨hc, -⟩ hp hm hi busy he
  obtain ⟨op, r, sends⟩ := exec_sending_runs_queueSend hi hc hm
  cases sends.symm.trans he
  have held : HeldUp (accept s) (settle (queueSend op r (accept s))) :=
    (queueSend_heldUp op r (s := accept s) hp).then_settle busy
  obtain ⟨inside, quiet⟩ := held.arbitrating.outside_transmit
  exact ⟨inside, quiet, held.sent, held.rsps, held.mode, held.sendIntent⟩

end Sys2Proof.Machine
end

section
/-! SUPPORT. The invariant (43_delivery_manager.md R143) as what each point of CTL asks of the state, and that every step
keeps it. -/

namespace Sys2Proof.Machine

/-! ### What each point of CTL asks -/

/-- What a transmission for `k` asks until its retry time is armed: a request and a promotion are still in START_PENDING
(43_delivery_manager.md R143 e), a request carries no packet to forward. -/
def Sender.Demands (k : Sender) (s : State) : Prop :=
  match k with
  | .request _ => s.pend.map Pending.seq = some s.lastSeq ∧ s.fwd = none
  | .promoted => s.pend.map Pending.seq = some s.lastSeq
  | .retry => s.pend ≠ none

/-- What SEND_GATED for `k` asks: TXBUF holds the pending frame (10_state.md R18). -/
def Sender.Gated (k : Sender) (s : State) : Prop := s.pendingFrame = some s.txbuf ∧ k.Demands s

/-- What a POLL asks: the TICK's holds neither event nor packet yet, a drain is inside SEND_GATED. -/
def Poller.Demands (p : Poller) (s : State) : Prop :=
  match p with
  | .tick => s.events = [] ∧ s.fwd = none
  | .drain k => k.Gated s

/-- What DECODE guarantees of a packet it accepts (40_frame_codec.md R96). -/
def AcceptedPacket (pkt : Packet) : Prop := 6 ≤ pkt.length.toNat ∧ pkt.payload.length + 6 = pkt.length.toNat

/-- What the invariant asks of the state where CTL is at `c`, SEND_INTENT aside. -/
def Ctl.Demands (c : Ctl) (s : State) : Prop :=
  match c with
  | .idle => s.events = [] ∧ s.fwd = none
  | .rxSample p => p.Demands s
  | .rxWaitEnd p => p.Demands s
  | .rxLen p => p.Demands s
  | .rxBody p len buf => p.Demands s ∧ buf.head? = some len ∧ buf.length < len.toNat + 3
  | .dispatch pkt => (s.events = [] ∧ s.fwd = none) ∧ AcceptedPacket pkt
  | .arbSample k => k.Gated s
  | .arbDraw k => k.Gated s
  | .arbSleep k _ => k.Gated s
  | .txSettle k => k.Gated s
  | .txByte k i => k.Gated s ∧ i < s.txbuf.length
  | .timeSample .retryTest => s.pend ≠ none
  | .timeSample (.arm k) => k.Demands s

/-- The state meets what its own point asks. -/
def State.AtPoint (s : State) : Prop := s.sendIntent = s.ctl.transmitting ∧ s.ctl.Demands s

/-- What the invariant asks wherever CTL is, the events held aside (10_state.md R11, 43_delivery_manager.md R143 a, b). -/
structure Standing (s : State) : Prop where
  addr_fixed : s.addr = s.cfg.nodeAddr
  backlog_pending : s.bq ≠ [] → s.pend ≠ none
  backlog_bound : s.bq.length ≤ s.cfg.backlogDepth

/-! ### That this is the invariant -/

theorem Sender.Demands.pending {k : Sender} {s : State} (h : k.Demands s) : s.pend ≠ none := by
  intro hp
  cases k with
  | request op => simp [Sender.Demands, hp] at h
  | promoted => simp [Sender.Demands, hp] at h
  | retry => exact h hp

theorem Ctl.sendFor_of_sender {c : Ctl} {k : Sender} (h : c.sender = some k) : c.sendFor = some k := by
  cases c with
  | timeSample t => cases h
  | _ => exact h

theorem Inv.sender_demands {s : State} {k : Sender} (h : Inv s) (hk : s.ctl.sendFor = some k) (hp : s.pend ≠ none) :
    k.Demands s := by
  have starting : (Ctl.arbSample k).starting = true → s.pend.map Pending.seq = some s.lastSeq := fun hs =>
    h.starting_seq (by rw [← hs, Ctl.starting, hk]; rfl)
  cases k with
  | request op => exact ⟨starting rfl, h.request_forwards_nothing op hk⟩
  | promoted => exact starting rfl
  | retry => exact hp

theorem Inv.gated {s : State} {k : Sender} (h : Inv s) (hk : s.ctl.sender = some k) : k.Gated s := by
  have frame : s.pendingFrame = some s.txbuf := h.sending_frame (by rw [hk]; exact Option.some_ne_none k)
  refine ⟨frame, h.sender_demands (Ctl.sendFor_of_sender hk) fun hp => ?_⟩
  simp [State.pendingFrame, hp] at frame

theorem Inv.poller_demands {s : State} {point : Poller → Ctl} {p : Poller} (h : Inv s) (hc : s.ctl = point p)
    (tick : (point .tick).beforeDispatch = true) (drain : ∀ k, (point (.drain k)).sender = some k) : p.Demands s := by
  cases p with
  | tick => exact h.before_dispatch_clear (by rw [hc, tick])
  | drain k => exact h.gated (by rw [hc, drain])

theorem Inv.atPoint {s : State} (h : Inv s) : s.AtPoint := by
  refine ⟨h.intent_iff, ?_⟩
  cases hc : s.ctl with
  | idle => exact h.idle_clear hc
  | rxSample p => exact h.poller_demands hc rfl fun _ => rfl
  | rxWaitEnd p => exact h.poller_demands hc rfl fun _ => rfl
  | rxLen p => exact h.poller_demands hc rfl fun _ => rfl
  | rxBody p len buf =>
    exact ⟨h.poller_demands (point := (.rxBody · len buf)) hc rfl fun _ => rfl, h.rx_index p len buf hc⟩
  | dispatch pkt => exact ⟨h.before_dispatch_clear (by rw [hc]; rfl), h.dispatched_accepted pkt hc⟩
  | arbSample k => exact h.gated (by rw [hc]; rfl)
  | arbDraw k => exact h.gated (by rw [hc]; rfl)
  | arbSleep k d => exact h.gated (by rw [hc]; rfl)
  | txSettle k => exact h.gated (by rw [hc]; rfl)
  | txByte k i => exact ⟨h.gated (by rw [hc]; rfl), h.tx_index k i hc⟩
  | timeSample t =>
    cases t with
    | retryTest => exact h.sampling_pending _ hc
    | arm k => exact h.sender_demands (by rw [hc]; rfl) (h.sampling_pending _ hc)

theorem Inv.standing {s : State} (h : Inv s) : Standing s := ⟨h.addr_fixed, h.backlog_pending, h.backlog_bound⟩

/-- Inside SEND_GATED the point asks what its sender asks. -/
theorem Ctl.Demands.gated {c : Ctl} {s : State} {k : Sender} (h : c.Demands s) (hk : c.sender = some k) :
    k.Gated s := by
  cases c with
  | rxSample p => cases p <;> cases hk; exact h
  | rxWaitEnd p => cases p <;> cases hk; exact h
  | rxLen p => cases p <;> cases hk; exact h
  | rxBody p len buf => cases p <;> cases hk; exact h.1
  | txByte k i => cases hk; exact h.1
  | arbSample k => cases hk; exact h
  | arbDraw k => cases hk; exact h
  | arbSleep k d => cases hk; exact h
  | txSettle k => cases hk; exact h
  | idle => cases hk
  | dispatch pkt => cases hk
  | timeSample t => cases hk

theorem Ctl.Demands.sender_demands {c : Ctl} {s : State} {k : Sender} (h : c.Demands s) (hk : c.sendFor = some k) :
    k.Demands s := by
  match c with
  | .timeSample (.arm k') => cases hk; exact h
  | .timeSample .retryTest => cases hk
  | .idle | .dispatch _ => cases hk
  | .rxSample _ | .rxWaitEnd _ | .rxLen _ | .rxBody _ _ _ | .arbSample _ | .arbDraw _ | .arbSleep _ _ | .txSettle _
  | .txByte _ _ => exact (h.gated hk).2

theorem Ctl.Demands.clear {c : Ctl} {s : State} (h : c.Demands s) (hb : c.beforeDispatch = true) :
    s.events = [] ∧ s.fwd = none := by
  match c with
  | .rxSample .tick | .rxWaitEnd .tick | .rxLen .tick => exact h
  | .rxBody .tick _ _ | .dispatch _ => exact h.1

theorem Ctl.Demands.starting_seq {c : Ctl} {s : State} (h : c.Demands s) (hs : c.starting = true) :
    s.pend.map Pending.seq = some s.lastSeq := by
  unfold Ctl.starting at hs
  split at hs
  · next op hk => exact (h.sender_demands hk).1
  · next hk => exact h.sender_demands hk
  · cases hs
  · cases hs

/-- The invariant, point by point. -/
theorem inv_of_atPoint {s : State} (hs : Standing s) (hp : s.AtPoint) (he : ∀ e ∈ s.events, e.ordinary) : Inv s := by
  obtain ⟨intent, demands⟩ := hp
  have here : ∀ {c}, s.ctl = c → c.Demands s := fun hc => hc ▸ demands
  exact {
    addr_fixed := hs.addr_fixed
    backlog_pending := hs.backlog_pending
    backlog_bound := hs.backlog_bound
    intent_iff := intent
    idle_clear := fun hc => here hc
    sending_frame := fun hne => by
      obtain ⟨k, hk⟩ := Option.ne_none_iff_exists'.1 hne
      exact (demands.gated hk).1
    sampling_pending := fun t hc => by
      cases t with
      | retryTest => exact here hc
      | arm k => exact Sender.Demands.pending (here hc)
    starting_seq := demands.starting_seq
    request_forwards_nothing := fun op hk => (demands.sender_demands hk).2
    rx_index := fun p len buf hc => (here hc).2
    tx_index := fun k i hc => (here hc).2
    before_dispatch_clear := demands.clear
    dispatched_accepted := fun pkt hc => (here hc).2
    running_events := he }

/-! ### The operations inside a command -/

theorem respond_atPoint (status : Status) {s : State} (hi : s.sendIntent = false) : (respond status s).AtPoint :=
  ⟨hi, rfl, rfl⟩

theorem retryCheck_atPoint {s : State} (hi : s.sendIntent = false) : (retryCheck s).AtPoint := by
  obtain ⟨-, h⟩ | ⟨q, hp, h⟩ := retryCheck_cases s <;> rw [h]
  · exact respond_atPoint .ok hi
  · have pending : s.pend ≠ none := by simp [hp]
    exact ⟨hi, pending⟩

theorem requestDone_atPoint (op : SendCmd) {s : State} (hi : s.sendIntent = false) : (requestDone op s).AtPoint := by
  rw [requestDone_eq]
  exact respond_atPoint .ok hi

/-- ENCODE of the pending packet fills TXBUF with the pending frame. -/
theorem sendGated_atPoint {k : Sender} {q : Pending} {s : State} (hi : s.sendIntent = false) (hq : s.pend = some q)
    (hk : k.Demands s) : (sendGated k q s).AtPoint := by
  have frame : s.pendingFrame = some (encodeFrame s.addr q.dest q.type q.seq q.pay) := by
    rw [State.pendingFrame, hq]; rfl
  exact ⟨hi, frame, hk⟩

theorem retryTest_atPoint (x : Nat) {s : State} (hi : s.sendIntent = false) : (retryTest x s).AtPoint := by
  obtain ⟨-, h⟩ | ⟨q, hq, -, h⟩ | ⟨-, -, h⟩ := retryTest_cases x s <;> rw [h]
  · exact respond_atPoint .ok hi
  · have pending : s.pend ≠ none := by simp [hq]
    exact sendGated_atPoint (s := emit (.deliveryTimeout q.seq) s) hi hq pending
  · exact respond_atPoint .ok hi

theorem armed_atPoint (k : Sender) (x : Nat) {s : State} (hi : s.sendIntent = false) : (armed k x s).AtPoint := by
  obtain ⟨op, -, h⟩ | ⟨-, h⟩ | ⟨-, h⟩ := armed_cases k x s <;> rw [h]
  · exact requestDone_atPoint op hi
  · exact retryCheck_atPoint hi
  · exact respond_atPoint .ok hi

/-- A POLL that ends with Nothing asks its caller's demands only of a drain, for a TICK may have raised an event. -/
theorem pollDone_none_atPoint {p : Poller} {s : State} (hi : s.sendIntent = false)
    (hd : ∀ k, p = .drain k → k.Gated s) : (pollDone p none s).AtPoint := by
  cases p with
  | tick => exact retryCheck_atPoint hi
  | drain k => exact ⟨hi, hd k rfl⟩

theorem pollDone_some_atPoint {p : Poller} {pkt : Packet} {s : State} (hi : s.sendIntent = false) (hp : p.Demands s)
    (accepted : AcceptedPacket pkt) : (pollDone p (some pkt) s).AtPoint := by
  cases p with
  | tick => exact ⟨hi, hp, accepted⟩
  | drain k => exact ⟨hi, hp⟩

theorem Poller.Demands.gated {p : Poller} {s : State} (h : p.Demands s) (k : Sender) (hp : p = .drain k) : k.Gated s := by
  subst hp
  exact h

theorem pollRaise_atPoint {p : Poller} (e : Event) {s : State} (hi : s.sendIntent = false) (hp : p.Demands s) :
    (pollRaise p e s).AtPoint :=
  pollDone_none_atPoint (s := emit e (flush s)) hi hp.gated

theorem pollDecode_atPoint {p : Poller} (buf : List Byte) {s : State} (hi : s.sendIntent = false) (hp : p.Demands s) :
    (pollDecode p buf s).AtPoint := by
  unfold pollDecode
  cases hd : decodeFrame buf with
  | ok pkt => exact pollDone_some_atPoint (s := flush (sumBytes (summed buf) s)) hi hp (decodeFrame_ok_packet hd)
  | error e => exact pollRaise_atPoint (s := sumBytes (summed buf) s) (rxEvent e) hi hp

/-! ### Every wait point -/

/-- The pending frame has a first byte to send. -/
theorem Sender.Gated.frame_nonempty {k : Sender} {s : State} (h : k.Gated s) : 0 < s.txbuf.length := by
  obtain ⟨q, -, frame⟩ := Option.map_eq_some_iff.1 h.1
  rw [← frame, encodeFrame_length]
  exact Nat.succ_pos _

/-- Passing a wait point leads to the next with what that one asks. -/
theorem Pass.atPoint {s t : State} (h : Pass s t) (hs : s.AtPoint) : t.AtPoint := by
  have here : ∀ {c}, s.ctl = c → s.sendIntent = c.transmitting ∧ c.Demands s := fun hc => hc ▸ hs
  cases h with
  | rxIdle p rest hc hq => exact pollDone_none_atPoint (here hc).1 (Poller.Demands.gated (here hc).2)
  | rxActive p rest hc hq => exact ⟨(here hc).1, (here hc).2⟩
  | rxStuck p rest hc hq => exact pollRaise_atPoint _ (here hc).1 (here hc).2
  | rxEnded p bs rest hc hq => exact ⟨(here hc).1, (here hc).2⟩
  | rxNoLength p hc hq => exact pollRaise_atPoint _ (here hc).1 (here hc).2
  | rxLength p b rest hc hq =>
    obtain ⟨intent, polling⟩ := here hc
    exact ⟨intent, polling, rfl, by rw [List.length_singleton]; omega⟩
  | rxShort p len buf hc hq =>
    obtain ⟨intent, polling, -⟩ := here hc
    exact pollRaise_atPoint _ intent polling
  | rxMore p len b buf rest hc hq hl =>
    obtain ⟨intent, polling, head, -⟩ := here hc
    exact ⟨intent, polling, by rw [List.head?_append, head]; rfl, by rw [List.length_append]; exact hl⟩
  | rxLast p len b buf rest hc hq hl =>
    obtain ⟨intent, polling, -⟩ := here hc
    exact pollDecode_atPoint _ intent polling
  | arbIdle k rest hc hq => exact ⟨rfl, (here hc).2⟩
  | arbBusy k rest hc hq => exact ⟨(here hc).1, (here hc).2⟩
  | arbDraw k x rest hc hq => exact ⟨(here hc).1, (here hc).2⟩
  | arbSlept k d hc => exact ⟨(here hc).1, (here hc).2⟩
  | settled k hc =>
    obtain ⟨intent, gated⟩ := here hc
    exact ⟨intent, gated, gated.frame_nonempty⟩
  | txMore k i b hc hb hl =>
    obtain ⟨intent, gated, -⟩ := here hc
    exact ⟨intent, gated, hl⟩
  | txLast k i b hc hb hl =>
    obtain ⟨-, ⟨-, sending⟩, -⟩ := here hc
    exact ⟨rfl, sending⟩
  | txNone k i hc hb =>
    obtain ⟨-, ⟨-, sending⟩, -⟩ := here hc
    exact ⟨rfl, sending⟩
  | retryTest x rest hc hq => exact retryTest_atPoint _ (here hc).1
  | arm k x rest hc hq => exact armed_atPoint k _ (here hc).1

theorem settle_atPoint {s : State} (h : s.AtPoint) : (settle s).AtPoint := by
  refine settle_induction (P := State.AtPoint) (fun t u ht ha => ?_) h
  obtain ⟨-, v, hv, rfl⟩ := advance_pass ha
  exact hv.atPoint ht

/-! ### One step -/

/-- The invariant but for the events held. -/
structure Sound (s : State) : Prop extends Standing s where
  atPoint : s.AtPoint

theorem Stays.sound {s t : State} (h : Stays s t) (hs : Standing s) (ht : t.AtPoint) : Sound t where
  addr_fixed := by rw [h.addr, h.cfg]; exact hs.addr_fixed
  backlog_pending := by rw [h.bq, h.pend]; exact hs.backlog_pending
  backlog_bound := by rw [h.bq, h.cfg]; exact hs.backlog_bound
  atPoint := ht

theorem settle_sound {s : State} (h : Sound s) : Sound (settle s) :=
  (settle_stays s).sound h.toStanding (settle_atPoint h.atPoint)

/-- What a command finds at its acceptance: SEND_INTENT released, neither event nor packet held. -/
theorem Sound.idle {s : State} (h : Sound s) (hc : s.ctl = .idle) :
    s.sendIntent = false ∧ s.events = [] ∧ s.fwd = none := by
  have point := h.atPoint
  rw [State.AtPoint, hc] at point
  exact point

theorem Sound.intent_at_dispatch {s : State} (h : Sound s) {pkt : Packet} (hc : s.ctl = .dispatch pkt) :
    s.sendIntent = false := by
  rw [h.atPoint.1, hc]
  rfl

theorem queueSend_sound (op : SendCmd) (r : Request) {s : State} (h : Sound s) (hc : s.ctl = .idle) :
    Sound (queueSend op r s) := by
  obtain ⟨intent, -, noForward⟩ := h.idle hc
  obtain ⟨-, e⟩ | ⟨hp, room, e⟩ | ⟨-, -, e⟩ := queueSend_cases op r s <;> rw [e]
  · exact {
      addr_fixed := h.addr_fixed
      backlog_pending := fun _ => Option.some_ne_none _
      backlog_bound := h.backlog_bound
      atPoint := sendGated_atPoint intent rfl ⟨rfl, noForward⟩ }
  · have appended : Standing { s with bq := s.bq ++ [r] } :=
      ⟨h.addr_fixed, fun _ => hp, by rw [List.length_append]; exact room⟩
    exact (requestDone_stays op _).sound appended (requestDone_atPoint op intent)
  · exact { h.toStanding with atPoint := respond_atPoint .busy intent }

theorem guardedSend_sound (op : SendCmd) (r : Request) {s : State} (h : Sound s) (hc : s.ctl = .idle) :
    Sound (if s.terminal then respond .rejected (emit (.terminalReject op) s) else settle (queueSend op r s)) := by
  split
  · exact { h.toStanding with atPoint := respond_atPoint .rejected (h.idle hc).1 }
  · exact settle_sound (queueSend_sound op r h hc)

theorem setMode_sound (m : Mode) {s : State} (h : Sound s) (hc : s.ctl = .idle) :
    Sound (if legalEdge s.mode m then respond .ok { s with mode := m }
      else respond .badEdge (emit (.illegalModeEdge s.mode m) s)) := by
  split
  · exact { h.toStanding with atPoint := respond_atPoint .ok (h.idle hc).1 }
  · exact { h.toStanding with atPoint := respond_atPoint .badEdge (h.idle hc).1 }

theorem atIdle_sound {s t : State} {rest : List Byte} {run : State → State} (hs : Sound s)
    (h : atIdle { s with cmdQ := rest } run = .next t) (hrun : ∀ u, Sound u → u.ctl = .idle → Sound (run u)) :
    Sound t := by
  obtain ⟨hc, rfl⟩ := atIdle_next h
  have hi : s.ctl = .idle := hc
  have accepted : (accept { s with cmdQ := rest }).AtPoint := by
    rw [State.AtPoint, accept_ctl, hc]
    exact ⟨(hs.idle hi).1, rfl, rfl⟩
  exact hrun _ { hs.toStanding with atPoint := accepted } hc

theorem exec_command_sound {w : Byte} {rest : List Byte} {i : Instr} {s t : State} (hs : Sound s)
    (hd : decodeCommand w = .ok i) (h : exec i { s with cmdQ := rest } = .next t) : Sound t := by
  obtain rfl | rfl | rfl | rfl | ⟨m, rfl⟩ := decodeCommand_cases hd
  · rw [exec_tick_eq] at h
    exact atIdle_sound hs h fun u hu hc => settle_sound { hu.toStanding with atPoint := hu.idle hc }
  · rw [exec_unableToArm_eq] at h
    exact atIdle_sound hs h fun u hu hc => settle_sound (queueSend_sound _ _ hu hc)
  · rw [exec_disarmed_eq] at h
    exact atIdle_sound hs h fun u hu hc => guardedSend_sound .disarmed _ hu hc
  · rw [exec_strike_eq] at h
    exact atIdle_sound hs h fun u hu hc => guardedSend_sound .strike _ hu hc
  · rw [exec_setMode_eq] at h
    exact atIdle_sound hs h fun u hu hc => setMode_sound m hu hc

theorem forward_sound (type : Byte) (m : Msg) {s : State} (hs : Standing s) (intent : s.sendIntent = false) :
    Sound (forward type m s) := by
  have observed : Standing (keepForward (Forwarded.of type m) (observeSeq m.seq s)) := { hs with }
  exact (retryCheck_stays _).sound observed (retryCheck_atPoint intent)

/-- The promoted packet takes the acknowledged number plus one, which LAST_SEQ then is (43_delivery_manager.md R140). -/
theorem ackHandle_sound (seq : Byte) {s : State} (hs : Standing s) (intent : s.sendIntent = false) :
    Sound (ackHandle seq s) := by
  obtain ⟨-, e⟩ | ⟨p, -, -, hb, e⟩ | ⟨p, r, rest, -, -, hb, e⟩ := ackHandle_cases seq s <;> rw [e]
  · exact (retryCheck_stays _).sound { hs with } (retryCheck_atPoint intent)
  · have cleared : Standing (emit (.acked seq) { s with pend := none }) :=
      { hs with backlog_pending := absurd hb }
    exact (retryCheck_stays _).sound cleared (retryCheck_atPoint intent)
  · have fits : rest.length ≤ s.cfg.backlogDepth := by
      have bound := hs.backlog_bound
      rw [hb, List.length_cons] at bound
      omega
    exact {
      addr_fixed := hs.addr_fixed
      backlog_pending := fun _ => Option.some_ne_none _
      backlog_bound := fits
      atPoint := sendGated_atPoint (k := .promoted) intent rfl rfl }

theorem hardReset_sound (s : State) : Sound (hardReset s) where
  addr_fixed := rfl
  backlog_pending := absurd rfl
  backlog_bound := Nat.zero_le _
  atPoint := ⟨rfl, rfl, rfl⟩

theorem step_sound {s t : State} (hs : Sound s) (h : step s = .next t) : Sound t := by
  by_cases hr : s.rst = some 0
  · cases (step_reset hr).symm.trans h
    exact hardReset_sound s
  obtain ⟨-, -, rfl⟩ | ⟨w, rest, i, -, -, hd, he⟩ | ⟨w, rest, hc, -, rfl⟩ | ⟨pkt, i, hc, hd, he⟩ | ⟨pkt, hc, rfl⟩ |
    ⟨-, -, rfl⟩ := step_cases hr h
  · exact hs
  · exact exec_command_sound hs hd he
  · exact { hs.toStanding with atPoint := respond_atPoint .illegal (hs.idle hc).1 }
  · obtain ⟨k, -, rfl⟩ := decodePacket_cases hd
    obtain ⟨-, rfl⟩ | ⟨-, rfl⟩ := exec_ofKind_cases he
    · exact ackHandle_sound _ (s := observeSeq _ s) { hs.toStanding with } (hs.intent_at_dispatch hc)
    · exact forward_sound _ _ hs.toStanding (hs.intent_at_dispatch hc)
  · exact forward_sound _ _ hs.toStanding (hs.intent_at_dispatch hc)
  · exact settle_sound hs

/-- A command that has answered holds no event; one that goes on has raised ordinary ones only. -/
theorem Replies.held_ordinary {s t : State} (h : Replies s t) (held : ∀ e ∈ s.events, e.ordinary) (ht : Sound t) :
    ∀ e ∈ t.events, e.ordinary := by
  have answered : t.ctl = .idle → ∀ e ∈ t.events, e.ordinary := fun hc => by simp [(ht.idle hc).2.1]
  cases h with
  | goesOn es ho hr he hf => rw [he]; exact List.forall_mem_append.2 ⟨held, ho⟩
  | answers es ho hi hr => exact answered hi
  | refuses st e refusal hi hh hr => exact answered hi

/-- Settles O47: the registers stay sound, each point of CTL being reached with what it asks, and the events held stay
ordinary, for a run replies with ordinary events or ends. -/
theorem everyStepKeepsInvariant : Obligations.EveryStepKeepsInvariant := by
  intro s t hs h
  have sound : Sound t := step_sound { hs.standing with atPoint := hs.atPoint } h
  obtain ⟨u, entered, replied⟩ := step_replies h
  exact inv_of_atPoint sound.toStanding sound.atPoint (replied.held_ordinary (entered.held_ordinary hs) sound)

/-- Settles O46: after reset the block is idle with an empty slot and an empty backlog. -/
theorem resetMeetsInvariant : Obligations.ResetMeetsInvariant :=
  inv_of_atPoint ⟨rfl, absurd rfl, Nat.zero_le _⟩ ⟨rfl, rfl, rfl⟩ (by simp [State.reset])

end Sys2Proof.Machine
end

section
/-! SUPPORT. The statements of 43_delivery_manager.md: RETRY_CHECK and the arming of a retry time (R137, R139), QUEUE_SEND
(R136) and ACK_HANDLE (R140). -/

namespace Sys2Proof.Machine

/-! ### RETRY_CHECK, by the pending slot and the clock -/

theorem retryCheck_of_pending {s : State} (hp : s.pend ≠ none) : retryCheck s = goto (.timeSample .retryTest) s := by
  obtain ⟨q, hq⟩ := Option.ne_none_iff_exists'.1 hp
  simp only [retryCheck, hq]

theorem retryCheck_of_empty {s : State} (hp : s.pend = none) : retryCheck s = respond .ok s := by
  simp only [retryCheck, hp]

theorem retryTest_of_early {t : Nat} {s : State} (hp : s.pend ≠ none) (early : t < s.pendNextRetry) :
    retryTest t s = respond .ok s := by
  obtain ⟨hp', -⟩ | ⟨-, -, due, -⟩ | ⟨-, -, h⟩ := retryTest_cases t s
  · contradiction
  · omega
  · exact h

theorem retryTest_of_due {t : Nat} {s : State} {q : Pending} (hq : s.pend = some q) (due : s.pendNextRetry ≤ t) :
    retryTest t s = sendGated .retry q (emit (.deliveryTimeout q.seq) s) := by
  simp only [retryTest, hq, State.retryDue, due, decide_true, if_true]

/-- A sample before the retry time ends the TICK. -/
theorem settle_retryTest_early {s : State} {x : Nat} {ns : List Nat} (hc : s.ctl = .timeSample .retryTest)
    (hr : s.rst = none) (hn : s.nowQ = x :: ns) (hp : s.pend ≠ none) (early : max s.time x < s.pendNextRetry) :
    settle s = { s with
      nowQ := ns
      time := max s.time x
      trace := s.trace ++ [.now (max s.time x)]
      ctl := .idle
      rsps := s.rsps ++ [⟨.ok, s.events, s.fwd⟩]
      events := []
      fwd := none } :=
  (settle_retryTest hc hr hn).trans
    (Eq.trans (congrArg settle (retryTest_of_early hp early)) (settle_respond .ok _))

/-- A sample at or after the retry time enters SEND_GATED with the pending frame. -/
theorem settle_retryTest_due {s : State} {x : Nat} {ns : List Nat} {q : Pending}
    (hc : s.ctl = .timeSample .retryTest) (hr : s.rst = none) (hn : s.nowQ = x :: ns) (hq : s.pend = some q)
    (due : s.pendNextRetry ≤ max s.time x) :
    settle s = settle { s with
      nowQ := ns
      time := max s.time x
      trace := s.trace ++ [.now (max s.time x)]
      ctl := .arbSample .retry
      events := s.events ++ [.deliveryTimeout q.seq]
      txbuf := encodeFrame s.addr q.dest q.type q.seq q.pay
      chkAcc := chkSum (frameBody s.addr q.dest q.type q.seq q.pay.bytes) } :=
  (settle_retryTest hc hr hn).trans (congrArg settle (retryTest_of_due hq due))

/-- Settles O26: the one sample is compared, and at or after the retry time SEND_GATED is entered. -/
theorem retryCheckComparesOneSample : Obligations.RetryCheckComparesOneSample := by
  intro s q x ns hc hr hq hn
  have pending : s.pend ≠ none := by simp [hq]
  exact ⟨settle_retryTest_early hc hr hn pending, settle_retryTest_due hc hr hn hq⟩

/-- Settles O27: the arming is followed by RETRY_CHECK, which finds the promoted packet pending. -/
theorem promotedPacketIsArmed : Obligations.PromotedPacketIsArmed := by
  intro s x ns hc hr hp hn
  exact (settle_arm hc hr hn).trans (congrArg settle (retryCheck_of_pending hp))

theorem settle_arm_request {s : State} {op : SendCmd} {x : Nat} {ns : List Nat}
    (hc : s.ctl = .timeSample (.arm (.request op))) (hr : s.rst = none) (hn : s.nowQ = x :: ns) :
    settle s = { s with
      mode := if op = .disarmed then .disarmed else s.mode
      nowQ := ns
      time := max s.time x
      pendNextRetry := max s.time x + s.cfg.retryInterval
      ctl := .idle
      rsps := s.rsps ++ [⟨.ok, s.events, s.fwd⟩]
      events := []
      fwd := none
      trace := s.trace ++ [.now (max s.time x)] } :=
  (settle_arm hc hr hn).trans (Eq.trans (congrArg settle (requestDone_eq op _)) (settle_respond .ok _))

theorem settle_arm_retry {s : State} {x : Nat} {ns : List Nat} (hc : s.ctl = .timeSample (.arm .retry))
    (hr : s.rst = none) (hn : s.nowQ = x :: ns) :
    settle s = { s with
      nowQ := ns
      time := max s.time x
      pendNextRetry := max s.time x + s.cfg.retryInterval
      ctl := .idle
      rsps := s.rsps ++ [⟨.ok, s.events, s.fwd⟩]
      events := []
      fwd := none
      trace := s.trace ++ [.now (max s.time x)] } :=
  (settle_arm hc hr hn).trans (settle_respond .ok _)

/-- Settles O58: a request and a retransmission answer in the arming's own step; of them only DISARMED writes MODE. -/
theorem requestOrRetryAnswersOnceArmed : Obligations.RequestOrRetryAnswersOnceArmed := by
  intro s k x ns hc hr hn
  constructor
  · rintro (rfl | rfl | rfl)
    · exact settle_arm_request hc hr hn
    · exact settle_arm_request hc hr hn
    · exact settle_arm_retry hc hr hn
  · rintro rfl
    exact settle_arm_request hc hr hn

/-! ### A TICK on an idle line -/

/-- A TICK that receives nothing and has a packet pending runs on from RETRY_CHECK's sample (44_node_session.md R155). -/
theorem exec_tick_idle_pending {s : State} {ls : List Bool} (hc : s.ctl = .idle) (hr : s.rst = none)
    (hp : s.pend ≠ none) (hl : s.lineQ = false :: ls) :
    exec .tick s = .next (settle { s with
      lineQ := ls
      ctl := .timeSample .retryTest
      events := []
      fwd := none
      trace := s.trace ++ [.lineActive false] }) := by
  rw [exec_tick_eq, atIdle_of_idle hc, settle_rxSample_idle (s := goto (.rxSample .tick) (accept s)) rfl hr hl]
  exact congrArg (Host.Outcome.next ∘ settle) (retryCheck_of_pending hp)

/-- Settles O21: RETRY_CHECK's sample is below the retry time, so the TICK answers there. -/
theorem tickBeforeRetryTime : Obligations.TickBeforeRetryTime := by
  rintro s ls x ns ⟨hc, hr⟩ hp hl hn early
  refine (exec_tick_idle_pending hc hr hp hl).trans (congrArg Host.Outcome.next ?_)
  refine Eq.trans (settle_retryTest_early rfl hr hn hp early) ?_
  simp only [← hc, List.append_assoc, List.cons_append, List.nil_append]

/-- Settles O22: RETRY_CHECK enters SEND_GATED, the line is idle, the frame goes out and the retry time is armed. -/
theorem tickRetransmitsWhenDue : Obligations.TickRetransmitsWhenDue := by
  rintro s q ls x y ns ⟨hc, hr⟩ hq hl hn due
  have pending : s.pend ≠ none := by simp [hq]
  have frame : encodeFrame s.addr q.dest q.type q.seq q.pay ≠ [] := by simp [← List.length_pos_iff]
  refine (exec_tick_idle_pending hc hr pending hl).trans (congrArg Host.Outcome.next ?_)
  refine Eq.trans (settle_retryTest_due rfl hr hn hq due) ?_
  refine Eq.trans (idleSampleTransmitsWholeFrame _ .retry ls rfl hr frame rfl) ?_
  refine Eq.trans (settle_arm_retry rfl hr rfl) ?_
  simp only [← hc, List.append_assoc, List.cons_append, List.nil_append]

/-! ### QUEUE_SEND in the three commands -/

theorem exec_unableToArm_of_idle {s : State} (hc : s.ctl = .idle) :
    exec .unableToArm s = .next (settle (queueSend .unableToArm (toController .error) (accept s))) :=
  (exec_unableToArm_eq s).trans (atIdle_of_idle hc _)

/-- Outside the terminal mode the guard of 44_node_session.md R157 and R158 lets QUEUE_SEND run. -/
theorem atIdle_guardedSend (op : SendCmd) (r : Request) {s : State} (hc : s.ctl = .idle) (hm : s.mode ≠ .disarmed) :
    (atIdle s fun s => if s.terminal then respond .rejected (emit (.terminalReject op) s)
      else settle (queueSend op r s)) = .next (settle (queueSend op r (accept s))) := by
  have guard : ¬ (accept s).terminal = true := by simpa [State.terminal] using hm
  rw [atIdle_of_idle hc, if_neg guard]

theorem exec_strike_of_idle {s : State} (hc : s.ctl = .idle) (hm : s.mode ≠ .disarmed) :
    exec .strike s = .next (settle (queueSend .strike (toController .strike) (accept s))) :=
  (exec_strike_eq s).trans (atIdle_guardedSend _ _ hc hm)

theorem exec_disarmed_of_idle {s : State} (hc : s.ctl = .idle) (hm : s.mode ≠ .disarmed) :
    exec .disarmed s = .next (settle (queueSend .disarmed (toController .defused) (accept s))) :=
  (exec_disarmed_eq s).trans (atIdle_guardedSend _ _ hc hm)

/-- With a packet pending and room in the backlog the request is appended and the command answers OK
(43_delivery_manager.md R136). -/
theorem settle_queueSend_appends (op : SendCmd) (r : Request) {s : State} (hp : s.pend ≠ none)
    (room : s.bq.length < s.cfg.backlogDepth) :
    settle (queueSend op r s) = respond .ok { s with
      mode := if op = .disarmed then .disarmed else s.mode
      bq := s.bq ++ [r] } := by
  obtain ⟨hp', -⟩ | ⟨-, -, h⟩ | ⟨-, full, -⟩ := queueSend_cases op r s
  · contradiction
  · rw [h, requestDone_eq]
    exact settle_respond .ok _
  · omega

/-- Settles O31: the pending slot is full and the backlog is not, so QUEUE_SEND appends in each of the three commands. -/
theorem requestsJoinTheBacklog : Obligations.RequestsJoinTheBacklog := by
  rintro s ⟨hc, -⟩ hp room
  have appends (op : SendCmd) (r : Request) := settle_queueSend_appends op r (s := accept s) hp room
  refine ⟨?_, fun hm => ⟨?_, ?_⟩⟩
  · rw [exec_unableToArm_of_idle hc, appends, hc]
    rfl
  · rw [exec_strike_of_idle hc hm, appends, hc]
    rfl
  · rw [exec_disarmed_of_idle hc hm, appends, hc]
    rfl

/-- Settles O59: with an empty slot QUEUE_SEND is START_PENDING, up to the arbiter's first sample. -/
theorem requestsEnterSendGated : Obligations.RequestsEnterSendGated := by
  rintro s ⟨hc, -⟩ hp
  have starts (op : SendCmd) (r : Request) := queueSend_of_empty (op := op) (r := r) (s := accept s) hp
  refine ⟨?_, fun hm => ⟨?_, ?_⟩⟩
  · rw [exec_unableToArm_of_idle hc, starts]
    rfl
  · rw [exec_strike_of_idle hc hm, starts]
    rfl
  · rw [exec_disarmed_of_idle hc hm, starts]
    rfl

/-! ### ACK_HANDLE -/

/-- At a dispatch ACK_HANDLE runs after LAST_SEQ has been observed (44_node_session.md R164, R172). -/
theorem exec_msgAck_of_dispatching {s : State} (h : s.dispatching) (m : Msg) :
    exec (.msgAck m) s = .next (ackHandle m.seq (observeSeq m.seq s)) := by
  obtain ⟨⟨pkt, hc⟩, -⟩ := h
  exact (exec_ack_eq m s).trans (atDispatch_of_dispatch hc _)

theorem ackHandle_of_other {seq : Byte} {s : State} (other : ∀ q, s.pend = some q → q.seq ≠ seq) :
    ackHandle seq s = retryCheck (emit (.ackIgnored seq) s) := by
  obtain ⟨-, h⟩ | ⟨q, hq, hs, -⟩ | ⟨q, r, rest, hq, hs, -⟩ := ackHandle_cases seq s
  · exact h
  · exact absurd hs (other q hq)
  · exact absurd hs (other q hq)

theorem ackHandle_of_match {s : State} {q : Pending} (hq : s.pend = some q) :
    ackHandle q.seq s = acknowledge q.seq s := by
  simp only [ackHandle, hq, Pending.acknowledgedBy, beq_self_eq_true, if_true]

/-- An ACK that clears the slot is answered at once, without a time sample. -/
theorem acknowledge_of_empty (seq : Byte) {s : State} (hb : s.bq = []) :
    acknowledge seq s = respond .ok (emit (.acked seq) { s with pend := none }) := by
  unfold acknowledge
  split
  · exact retryCheck_of_empty rfl
  · next hb' => cases hb.symm.trans hb'

theorem acknowledge_of_backlog (seq : Byte) {s : State} {r : Request} {rest : List Request} (hb : s.bq = r :: rest) :
    acknowledge seq s = startPending .promoted r (emit (.acked seq) { s with pend := none, bq := rest }) := by
  simp only [acknowledge, hb]

theorem respond_without_forward {status : Status} {s : State} (hf : s.fwd = none) :
    respond status s = { s with
      ctl := .idle
      rsps := s.rsps ++ [⟨status, s.events, none⟩]
      events := []
      fwd := none } := by
  rw [respond, hf]

/-- Settles O42: with an empty backlog the slot is cleared, and RETRY_CHECK answers at once. -/
theorem matchingAckClearsSlot : Obligations.MatchingAckClearsSlot := by
  intro s m q hd hf hp hq hb
  rw [exec_msgAck_of_dispatching hd, ← hq, ackHandle_of_match (s := observeSeq q.seq s) hp,
    acknowledge_of_empty q.seq (s := observeSeq q.seq s) hb,
    respond_without_forward (s := emit _ { observeSeq q.seq s with pend := none }) hf]
  rfl

/-- Settles O43: the head of the backlog is started with the successor of the acknowledged number. -/
theorem matchingAckPromotesBacklogHead : Obligations.MatchingAckPromotesBacklogHead := by
  intro s m q r rest hd hp hq hb
  rw [exec_msgAck_of_dispatching hd, ← hq, ackHandle_of_match (s := observeSeq q.seq s) hp,
    acknowledge_of_backlog q.seq (s := observeSeq q.seq s) hb]
  rfl

/-- Settles O44: any other ACK is recorded as ignored, and RETRY_CHECK follows with no packet held. -/
theorem otherAckIgnored : Obligations.OtherAckIgnored := by
  intro s m hd hf other
  rw [exec_msgAck_of_dispatching hd, ackHandle_of_other (s := observeSeq m.seq s) other]
  constructor
  · intro hp
    rw [retryCheck_of_empty (s := emit _ (observeSeq m.seq s)) hp,
      respond_without_forward (s := emit _ (observeSeq m.seq s)) hf]
    rfl
  · intro hp
    rw [retryCheck_of_pending (s := emit _ (observeSeq m.seq s)) hp, ← hf]
    rfl

theorem retryCheck_goto (c : Ctl) (s : State) : retryCheck (goto c s) = retryCheck s := pollDone_goto .tick none c s

theorem acknowledge_goto (seq : Byte) (c : Ctl) (s : State) : acknowledge seq (goto c s) = acknowledge seq s := by
  cases hb : s.bq with
  | nil =>
    rw [acknowledge_of_empty seq hb, acknowledge_of_empty seq (s := goto c s) hb]
    rfl
  | cons r rest =>
    rw [acknowledge_of_backlog seq hb, acknowledge_of_backlog seq (s := goto c s) hb]
    rfl

/-- ACK_HANDLE does not look at CTL, which at its dispatch holds the packet. -/
theorem ackHandle_goto (seq : Byte) (c : Ctl) (s : State) : ackHandle seq (goto c s) = ackHandle seq s := by
  have ignored := retryCheck_goto c (emit (.ackIgnored seq) s)
  unfold ackHandle
  rw [goto_pend]
  cases s.pend with
  | none => exact ignored
  | some q =>
    dsimp only
    rw [acknowledge_goto]
    split
    · rfl
    · exact ignored

/-- At the dispatch of an ACK only its sequence number is handed on (44_node_session.md R166). -/
theorem step_ack {s : State} {pkt : Packet} (hr : s.rst ≠ some 0) (ht : pkt.type = 0x02#8) :
    step { s with ctl := .dispatch pkt } = .next (ackHandle pkt.seq (observeSeq pkt.seq s)) := by
  have decoded : decodePacket pkt = .ok (Instr.ofKind .ack pkt.toMsg) := decodePacket_of_kind ht
  have runs := exec_ack_eq pkt.toMsg { s with ctl := .dispatch pkt }
  rw [atDispatch_of_dispatch rfl] at runs
  refine (step_message (s := { s with ctl := .dispatch pkt }) hr rfl decoded).trans (runs.trans ?_)
  exact congrArg Host.Outcome.next (ackHandle_goto pkt.seq (.dispatch pkt) (observeSeq pkt.seq s))

/-- Settles O45: two ACKs with one number are handed on alike; an asserted reset input forgets both. -/
theorem onlySequenceOfAckCounts : Obligations.OnlySequenceOfAckCounts := by
  intro s a b ha hb hseq
  by_cases hr : s.rst = some 0
  · exact (step_reset (s := { s with ctl := .dispatch a }) hr).trans
      (step_reset (s := { s with ctl := .dispatch b }) hr).symm
  · rw [step_ack hr ha, step_ack hr hb, hseq]

end Sys2Proof.Machine
end

section
/-! SUPPORT. The statements of 44_node_session.md: what a TICK, a sending command and SET_MODE do (R155 to R160), which step
moves MODE (R161), and that every received kind but ACK is forwarded (R164, R170 to R183). -/

namespace Sys2Proof.Machine

/-- Settles O18: an idle block without a word keeps its state, and no wait point takes a command word. -/
theorem stepElsewhereContinues : Obligations.StepElsewhereContinues := by
  constructor
  · rintro s ⟨hc, hr⟩ hq
    exact step_idle (by simp [hr]) hc hq
  · intro s hr hi hd
    exact ⟨settle s, step_running hr hi hd, (settle_stays s).cmdQ⟩

/-! ### A TICK with nothing pending, or with activity on the line -/

/-- With nothing pending RETRY_CHECK ends the TICK (44_node_session.md R155). -/
theorem settle_retryCheck_of_empty {s : State} (hp : s.pend = none) : settle (retryCheck s) = respond .ok s := by
  rw [retryCheck_of_empty hp, settle_respond]

/-- Settles O20: POLL finds the line idle, and RETRY_CHECK answers at once. -/
theorem tickWithNothingToDo : Obligations.TickWithNothingToDo := by
  rintro s ls ⟨hc, hr⟩ hp hl
  rw [exec_tick_eq, atIdle_of_idle hc, settle_rxSample_idle (s := goto (.rxSample .tick) (accept s)) rfl hr hl, hc]
  exact congrArg Host.Outcome.next (settle_retryCheck_of_empty hp)

/-- A TICK's POLL has read one burst of an active line and is about to return to its caller (41_bus_transport.md R110,
R111). -/
def State.tickRead (s : State) (ls : List Bool) (bs : List Byte) (rest : List Burst) : State :=
  { s with
    lineQ := ls
    burstQ := rest
    rxbuf := []
    chkAcc := sumAfterRead s.chkAcc (s.rxbuf ++ bs)
    events := []
    fwd := none
    trace := s.trace ++ [.lineActive true, .waitActivityEnd s.cfg.activityTimeout true] ++
      readCalls s.cfg.readTimeout (s.rxbuf ++ bs) }

/-- A TICK on an active line whose burst has come goes on with DECODE's result (44_node_session.md R155). -/
theorem exec_tick_burst {s : State} {ls : List Bool} {bs : List Byte} {rest : List Burst} (hs : s.ready)
    (hl : s.lineQ = true :: ls) (hb : s.burstQ = .bytes bs :: rest) :
    exec .tick s = .next (settle (pollResult .tick (decodeFrame (s.rxbuf ++ bs)) (s.tickRead ls bs rest))) := by
  obtain ⟨hc, hr⟩ := hs
  rw [exec_tick_eq, atIdle_of_idle hc, settle_rxSample_active (s := goto (.rxSample .tick) (accept s)) rfl hr hl]
  refine congrArg Host.Outcome.next (Eq.trans (settle_burst rfl hr hb) (congrArg settle ?_))
  rw [← pollResult_goto .tick _ (.rxWaitEnd .tick) (s.tickRead ls bs rest)]
  simp only [State.tickRead, State.afterRead, State.call, goto, accept, List.append_assoc, List.cons_append,
    List.nil_append]

/-- Settles O23: DECODE accepts the burst, POLL returns the packet, and the step ends at its dispatch. -/
theorem tickReceivesAcceptedFrame : Obligations.TickReceivesAcceptedFrame := by
  intro s ls bs rest pkt hs hl hb accepted
  rw [exec_tick_burst hs hl hb, accepted, ← sumAfterRead_of_accepted accepted s.chkAcc]
  exact congrArg Host.Outcome.next (settle_dispatch rfl)

/-- Settles O24: POLL returns Nothing with the event of the error, so RETRY_CHECK is all that follows. -/
theorem tickDiscardsBadFrame : Obligations.TickDiscardsBadFrame := by
  intro s ls bs rest e hs hl hb refused read
  have runs : exec .tick s = .next (settle (retryCheck (emit (rxEvent e) (s.tickRead ls bs rest)))) := by
    rw [exec_tick_burst hs hl hb, refused]
    rfl
  rw [runs]
  constructor
  · intro hp
    rw [settle_retryCheck_of_empty (s := emit _ (s.tickRead ls bs rest)) hp, hs.1]
    rfl
  · intro hp
    rw [retryCheck_of_pending (s := emit _ (s.tickRead ls bs rest)) hp]
    rfl

/-! ### A sending command with an empty slot and an idle line -/

/-- With an empty slot and an idle line the request is numbered and sent once, its retry time is armed and the command
answers OK (43_delivery_manager.md R136, R137, 41_bus_transport.md R115). -/
theorem settle_queueSend_sends (op : SendCmd) (r : Request) {s : State} {ls : List Bool} {x : Nat} {ns : List Nat}
    (hr : s.rst = none) (hp : s.pend = none) (hl : s.lineQ = false :: ls) (hn : s.nowQ = x :: ns) :
    settle (queueSend op r s) = { s with
      mode := if op = .disarmed then .disarmed else s.mode
      lineQ := ls
      nowQ := ns
      time := max s.time x
      lastSeq := s.nextSeq
      pend := some ⟨r.dest, r.type, s.nextSeq, r.pay⟩
      pendNextRetry := max s.time x + s.cfg.retryInterval
      sendIntent := false
      ctl := .idle
      txbuf := encodeFrame s.addr r.dest r.type s.nextSeq r.pay
      chkAcc := chkSum (frameBody s.addr r.dest r.type s.nextSeq r.pay.bytes)
      rxbuf := []
      rsps := s.rsps ++ [⟨.ok, s.events, s.fwd⟩]
      events := []
      fwd := none
      trace := s.trace ++ [.lineActive false] ++
        transmitCalls s.cfg.settleTime (encodeFrame s.addr r.dest r.type s.nextSeq r.pay) ++ [.now (max s.time x)] } := by
  have frame : encodeFrame s.addr r.dest r.type s.nextSeq r.pay ≠ [] := by simp [← List.length_pos_iff]
  rw [queueSend_of_empty hp]
  exact (idleSampleTransmitsWholeFrame (startPending (.request op) r s) (.request op) ls rfl hr frame hl).trans
    (settle_arm_request rfl hr hn)

/-- Settles O28: QUEUE_SEND runs whatever MODE is. -/
theorem unableToArmSendsError : Obligations.UnableToArmSendsError := by
  rintro s ls x ns ⟨hc, hr⟩ hp hl hn
  rw [exec_unableToArm_of_idle hc, settle_queueSend_sends _ _ (s := accept s) hr hp hl hn, hc]
  rfl

/-- Settles O29: outside the terminal mode QUEUE_SEND runs, and STRIKE writes no MODE. -/
theorem strikeSendsStrike : Obligations.StrikeSendsStrike := by
  rintro s ls x ns ⟨hc, hr⟩ hm hp hl hn
  rw [exec_strike_of_idle hc hm, settle_queueSend_sends _ _ (s := accept s) hr hp hl hn, hc]
  rfl

/-- Settles O30: outside the terminal mode QUEUE_SEND runs, and the answer of DISARMED sets MODE. -/
theorem disarmedSendsDefused : Obligations.DisarmedSendsDefused := by
  rintro s ls x ns ⟨hc, hr⟩ hm hp hl hn
  rw [exec_disarmed_of_idle hc hm, settle_queueSend_sends _ _ (s := accept s) hr hp hl hn, hc]
  rfl

/-! ### SET_MODE -/

theorem legalEdge_iff (a b : Mode) :
    legalEdge a b = true ↔ (a = .sleep ∧ b = .ready) ∨ (a = .ready ∧ b = .armed) := by
  cases a <;> cases b <;> decide

/-- Settles O34: SET_MODE tests for the two legal edges and writes MODE on no other. -/
theorem setModeAcceptsExactlyTwoEdges : Obligations.SetModeAcceptsExactlyTwoEdges := by
  rintro s m ⟨hc, -⟩
  rw [exec_setMode_eq, atIdle_of_idle hc, ← legalEdge_iff, hc]
  constructor
  · intro legal
    rw [if_pos (show legalEdge (accept s).mode m = true from legal)]
    rfl
  · intro illegal
    rw [if_neg (show ¬ legalEdge (accept s).mode m = true from illegal)]
    rfl

/-! ### Forwarded frames -/

/-- `fwd_reserved` is 0 for the 13 kinds and 1 for every other type byte (30_encoding.md R67, R74). -/
theorem Forwarded.of_kind (k : MsgKind) (m : Msg) :
    Forwarded.of k.toByte m =
      ⟨m.source, m.dest, k.toByte, m.seq, BitVec.ofNat 8 m.payload.length, m.payload, false⟩ := by
  cases k <;> rfl

theorem Forwarded.of_reserved {type : Byte} (h : 13 ≤ type.toNat) (m : Msg) :
    Forwarded.of type m = ⟨m.source, m.dest, type, m.seq, BitVec.ofNat 8 m.payload.length, m.payload, true⟩ := by
  rw [Forwarded.of, decide_eq_true h]

theorem forward_of_empty (type : Byte) (m : Msg) {s : State} (hp : s.pend = none) :
    forward type m s = { s with
      lastSeq := m.seq
      ctl := .idle
      rsps := s.rsps ++ [⟨.ok, s.events, some (Forwarded.of type m)⟩]
      events := []
      fwd := none } :=
  retryCheck_of_empty hp

theorem forward_of_pending (type : Byte) (m : Msg) {s : State} (hp : s.pend ≠ none) :
    forward type m s = { s with
      lastSeq := m.seq
      ctl := .timeSample .retryTest
      fwd := some (Forwarded.of type m) } :=
  retryCheck_of_pending hp

theorem exec_ofKind_of_dispatching {k : MsgKind} (hk : k ≠ .ack) (m : Msg) {s : State} (h : s.dispatching) :
    exec (Instr.ofKind k m) s = .next (forward k.toByte m s) := by
  obtain ⟨⟨pkt, hc⟩, -⟩ := h
  exact (exec_ofKind_eq_of_ne_ack hk m s).trans (atDispatch_of_dispatch hc _)

/-- Settles O17: no kind has a type byte above 12, so the step forwards the packet flagged. -/
theorem reservedKindForwardedFlagged : Obligations.ReservedKindForwardedFlagged := by
  intro s pkt hc hr reserved f
  rw [step_reserved (by simp [hr]) hc (decodePacket_of_reserved reserved), forwardReserved]
  constructor
  · intro hp
    rw [forward_of_empty _ _ hp, Forwarded.of_reserved reserved]
    rfl
  · intro hp
    rw [forward_of_pending _ _ hp, Forwarded.of_reserved reserved]
    rfl

/-- Settles O40: every kind but ACK is forwarded, and RETRY_CHECK finds nothing pending. -/
theorem forwardedKindsAnswerTick : Obligations.ForwardedKindsAnswerTick := by
  intro s k m hd hk hp
  rw [exec_ofKind_of_dispatching hk m hd, forward_of_empty _ _ hp, Forwarded.of_kind]

/-- Settles O41: every kind but ACK is forwarded, and RETRY_CHECK goes to its time sample. -/
theorem forwardedKindsReachRetryCheck : Obligations.ForwardedKindsReachRetryCheck := by
  intro s k m hd hk hp
  rw [exec_ofKind_of_dispatching hk m hd, forward_of_pending _ _ hp, Forwarded.of_kind]

/-! ### MODE over a run: only a DISARMED that is sending writes it -/

/-- MODE is `m`, and no DISARMED is sending that would set it (44_node_session.md R158, R161). -/
structure HoldsMode (m : Mode) (s : State) : Prop where
  mode : s.mode = m
  sendFor : s.ctl.sendFor ≠ some (.request .disarmed)

/-! The points of one POLL run for the same sender. -/

theorem Ctl.sendFor_rxWaitEnd (p : Poller) : (Ctl.rxWaitEnd p).sendFor = (Ctl.rxSample p).sendFor := by cases p <;> rfl

theorem Ctl.sendFor_rxLen (p : Poller) : (Ctl.rxLen p).sendFor = (Ctl.rxSample p).sendFor := by cases p <;> rfl

theorem Ctl.sendFor_rxBody (p : Poller) (len : Byte) (buf : List Byte) :
    (Ctl.rxBody p len buf).sendFor = (Ctl.rxSample p).sendFor := by
  cases p <;> rfl

section
variable {m : Mode} {s : State}

theorem respond_holdsMode (status : Status) (hm : s.mode = m) : HoldsMode m (respond status s) := ⟨hm, nofun⟩

theorem retryCheck_holdsMode (hm : s.mode = m) : HoldsMode m (retryCheck s) := by
  obtain ⟨-, h⟩ | ⟨-, -, h⟩ := retryCheck_cases s <;> rw [h]
  · exact respond_holdsMode .ok hm
  · exact ⟨hm, nofun⟩

theorem pollDone_holdsMode {p : Poller} (r : Option Packet) (hm : s.mode = m)
    (hp : (Ctl.rxSample p).sendFor ≠ some (.request .disarmed)) : HoldsMode m (pollDone p r s) := by
  obtain ⟨-, pkt, -, h⟩ | ⟨-, -, h⟩ | ⟨k, rfl, h⟩ := pollDone_cases p r s <;> rw [h]
  · exact ⟨hm, nofun⟩
  · exact retryCheck_holdsMode hm
  · exact ⟨hm, hp⟩

theorem pollDecode_holdsMode {p : Poller} (buf : List Byte) (hm : s.mode = m)
    (hp : (Ctl.rxSample p).sendFor ≠ some (.request .disarmed)) : HoldsMode m (pollDecode p buf s) := by
  unfold pollDecode
  split
  · exact pollDone_holdsMode _ hm hp
  · exact pollDone_holdsMode _ hm hp

theorem retryTest_holdsMode (x : Nat) (hm : s.mode = m) : HoldsMode m (retryTest x s) := by
  obtain ⟨-, h⟩ | ⟨q, -, -, h⟩ | ⟨-, -, h⟩ := retryTest_cases x s <;> rw [h]
  · exact respond_holdsMode .ok hm
  · exact ⟨hm, nofun⟩
  · exact respond_holdsMode .ok hm

theorem requestDone_holdsMode {op : SendCmd} (hop : op ≠ .disarmed) (hm : s.mode = m) :
    HoldsMode m (requestDone op s) := by
  rw [requestDone_eq, if_neg hop]
  exact respond_holdsMode .ok hm

theorem armed_holdsMode {k : Sender} (x : Nat) (hm : s.mode = m) (hk : some k ≠ some (.request .disarmed)) :
    HoldsMode m (armed k x s) := by
  obtain ⟨op, rfl, h⟩ | ⟨-, h⟩ | ⟨-, h⟩ := armed_cases k x s <;> rw [h]
  · exact requestDone_holdsMode (fun e => hk (e ▸ rfl)) hm
  · exact retryCheck_holdsMode hm
  · exact respond_holdsMode .ok hm

theorem Pass.holdsMode {t : State} (h : Pass s t) (hs : HoldsMode m s) : HoldsMode m t := by
  obtain ⟨hm, calm⟩ := hs
  cases h with
  | rxIdle p rest hc hq => rw [hc] at calm; exact pollDone_holdsMode _ hm calm
  | rxActive p rest hc hq => rw [hc, ← Ctl.sendFor_rxWaitEnd] at calm; exact ⟨hm, calm⟩
  | rxStuck p rest hc hq => rw [hc, Ctl.sendFor_rxWaitEnd] at calm; exact pollDone_holdsMode _ hm calm
  | rxEnded p bs rest hc hq => rw [hc, Ctl.sendFor_rxWaitEnd, ← Ctl.sendFor_rxLen] at calm; exact ⟨hm, calm⟩
  | rxNoLength p hc hq => rw [hc, Ctl.sendFor_rxLen] at calm; exact pollDone_holdsMode _ hm calm
  | rxLength p b rest hc hq => rw [hc, Ctl.sendFor_rxLen, ← Ctl.sendFor_rxBody p b [b]] at calm; exact ⟨hm, calm⟩
  | rxShort p len buf hc hq => rw [hc, Ctl.sendFor_rxBody] at calm; exact pollDone_holdsMode _ hm calm
  | rxMore p len b buf rest hc hq hl =>
    rw [hc, Ctl.sendFor_rxBody, ← Ctl.sendFor_rxBody p len (buf ++ [b])] at calm
    exact ⟨hm, calm⟩
  | rxLast p len b buf rest hc hq hl => rw [hc, Ctl.sendFor_rxBody] at calm; exact pollDecode_holdsMode _ hm calm
  | arbIdle k rest hc hq => rw [hc] at calm; exact ⟨hm, calm⟩
  | arbBusy k rest hc hq => rw [hc] at calm; exact ⟨hm, calm⟩
  | arbDraw k x rest hc hq => rw [hc] at calm; exact ⟨hm, calm⟩
  | arbSlept k d hc => rw [hc] at calm; exact ⟨hm, calm⟩
  | settled k hc => rw [hc] at calm; exact ⟨hm, calm⟩
  | txMore k i b hc hb hl => rw [hc] at calm; exact ⟨hm, calm⟩
  | txLast k i b hc hb hl => rw [hc] at calm; exact ⟨hm, calm⟩
  | txNone k i hc hb => rw [hc] at calm; exact ⟨hm, calm⟩
  | retryTest x rest hc hq => exact retryTest_holdsMode _ hm
  | arm k x rest hc hq => rw [hc] at calm; exact armed_holdsMode _ hm calm

theorem settle_holdsMode (h : HoldsMode m s) : HoldsMode m (settle s) := by
  refine settle_induction (P := HoldsMode m) ?_ h
  intro t u ht ha
  obtain ⟨-, v, hv, rfl⟩ := advance_pass ha
  obtain ⟨hm, calm⟩ := hv.holdsMode ht
  exact ⟨hm, calm⟩

end

theorem settle_mode (s : State) :
    (settle s).mode = s.mode ∨ ((settle s).mode = .disarmed ∧ s.ctl.sendFor = some (.request .disarmed)) := by
  by_cases sending : s.ctl.sendFor = some (.request .disarmed)
  · exact (settle_stays s).mode.imp_right fun e => ⟨e, sending⟩
  · exact .inl (settle_holdsMode ⟨rfl, sending⟩).mode

/-! ### MODE over one step (44_node_session.md R161) -/

theorem settle_queueSend_mode (op : SendCmd) (r : Request) (s : State) :
    (settle (queueSend op r s)).mode = s.mode ∨ ((settle (queueSend op r s)).mode = .disarmed ∧ op = .disarmed) := by
  obtain ⟨-, h⟩ | ⟨-, -, h⟩ | ⟨-, -, h⟩ := queueSend_cases op r s <;> rw [h]
  · refine (settle_mode (startPending (.request op) r s)).imp_right fun ⟨e, sending⟩ => ⟨e, ?_⟩
    cases sending
    rfl
  · rw [requestDone_eq, settle_respond]
    by_cases hop : op = .disarmed
    · exact .inr ⟨if_pos hop, hop⟩
    · exact .inl (if_neg hop)
  · rw [settle_respond]
    exact .inl rfl

theorem guardedSend_mode (op : SendCmd) (r : Request) (s : State) :
    let t := if s.terminal then respond .rejected (emit (.terminalReject op) s) else settle (queueSend op r s)
    t.mode = s.mode ∨ (t.mode = .disarmed ∧ op = .disarmed) := by
  dsimp only
  split
  · exact .inl rfl
  · exact settle_queueSend_mode op r s

/-- A command leaves MODE, or is the SET_MODE of the legal edge taken, or is DISARMED. -/
theorem exec_command_mode {w : Byte} {i : Instr} {s t : State} (hd : decodeCommand w = .ok i)
    (h : exec i s = .next t) :
    t.mode = s.mode ∨ (legalEdge s.mode t.mode = true ∧ i = .setMode t.mode) ∨ (t.mode = .disarmed ∧ i = .disarmed) := by
  obtain rfl | rfl | rfl | rfl | ⟨m, rfl⟩ := decodeCommand_cases hd
  · rw [exec_tick_eq] at h
    obtain ⟨-, rfl⟩ := atIdle_next h
    obtain e | ⟨-, sending⟩ := settle_mode (goto (.rxSample .tick) (accept s))
    · exact .inl e
    · cases sending
  · rw [exec_unableToArm_eq] at h
    obtain ⟨-, rfl⟩ := atIdle_next h
    obtain e | ⟨-, hop⟩ := settle_queueSend_mode .unableToArm (toController .error) (accept s)
    · exact .inl e
    · cases hop
  · rw [exec_disarmed_eq] at h
    obtain ⟨-, rfl⟩ := atIdle_next h
    exact (guardedSend_mode .disarmed _ (accept s)).imp_right fun ⟨e, _⟩ => .inr ⟨e, rfl⟩
  · rw [exec_strike_eq] at h
    obtain ⟨-, rfl⟩ := atIdle_next h
    obtain e | ⟨-, hop⟩ := guardedSend_mode .strike (toController .strike) (accept s)
    · exact .inl e
    · cases hop
  · rw [exec_setMode_eq] at h
    obtain ⟨-, rfl⟩ := atIdle_next h
    split
    · next legal => exact .inr (.inl ⟨legal, rfl⟩)
    · exact .inl rfl

theorem retryCheck_mode (s : State) : (retryCheck s).mode = s.mode := (retryCheck_holdsMode rfl).mode

theorem ackHandle_mode (seq : Byte) (s : State) : (ackHandle seq s).mode = s.mode := by
  obtain ⟨-, h⟩ | ⟨q, -, -, -, h⟩ | ⟨q, r, rest, -, -, -, h⟩ := ackHandle_cases seq s <;> rw [h]
  · exact retryCheck_mode _
  · exact retryCheck_mode _
  · rfl

/-- No received frame moves MODE (44_node_session.md R161). -/
theorem step_mode_of_dispatch {s t : State} {pkt : Packet} (hr : s.rst ≠ some 0) (hc : s.ctl = .dispatch pkt)
    (h : step s = .next t) : t.mode = s.mode := by
  cases hd : decodePacket pkt with
  | error e =>
    cases (step_reserved hr hc hd).symm.trans h
    exact retryCheck_mode _
  | ok i =>
    obtain ⟨k, -, rfl⟩ := decodePacket_cases hd
    obtain ⟨-, rfl⟩ | ⟨-, rfl⟩ := exec_ofKind_cases ((step_message hr hc hd).symm.trans h)
    · exact ackHandle_mode _ _
    · exact retryCheck_mode _

/-- The command map of 30_encoding.md R71 read backwards: a legal word is the encoding of its instruction. -/
theorem encode_of_decodeCommand {w : Byte} {i : Instr} (hd : decodeCommand w = .ok i) : encode i = [w] := by
  have table : ∀ w : Byte, (decodeCommand w).toOption.all (fun i => encode i == [w]) = true := by decide
  have entry := table w
  rw [hd] at entry
  exact beq_iff_eq.1 entry

theorem takes_of_encode {s : State} {w v : Byte} {rest : List Byte} {i : Instr} (hc : s.ctl = .idle)
    (hq : s.cmdQ = w :: rest) (hd : decodeCommand w = .ok i) (hv : encode i = [v]) : s.takes v := by
  cases (encode_of_decodeCommand hd).symm.trans hv
  exact ⟨hc, by rw [hq]; rfl⟩

/-- Settles O49: a word taken moves MODE by SET_MODE or by DISARMED, a command in progress moves it if it is a sending
DISARMED, and a dispatch never does. -/
theorem modeMovesOnlyAlongEdges : Obligations.ModeMovesOnlyAlongEdges := by
  intro s t hr h
  refine ⟨?_, fun pkt hc => step_mode_of_dispatch hr hc h⟩
  obtain ⟨-, -, rfl⟩ | ⟨w, rest, i, hc, hq, hd, he⟩ | ⟨w, rest, -, -, rfl⟩ | ⟨pkt, -, hc, -, -⟩ | ⟨pkt, hc, -⟩ |
    ⟨-, -, rfl⟩ := step_cases hr h
  · exact .inl rfl
  · obtain e | ⟨legal, hi⟩ | ⟨e, rfl⟩ := exec_command_mode hd he
    · exact .inl e
    · obtain ⟨source, target⟩ | ⟨source, target⟩ := (legalEdge_iff _ _).1 legal
      · rw [target] at hi
        exact .inr (.inl ⟨source, target, takes_of_encode hc hq hd (hi ▸ rfl)⟩)
      · rw [target] at hi
        exact .inr (.inr (.inl ⟨source, target, takes_of_encode hc hq hd (hi ▸ rfl)⟩))
    · exact .inr (.inr (.inr ⟨e, .inl (takes_of_encode hc hq hd rfl)⟩))
  · exact .inl rfl
  · exact .inl (step_mode_of_dispatch hr hc h)
  · exact .inl (step_mode_of_dispatch hr hc h)
  · exact (settle_mode s).imp_right fun ⟨e, sending⟩ => .inr (.inr ⟨e, .inr sending⟩)

end Sys2Proof.Machine
end

section
/-! SUPPORT. The statements of 60_exceptions.md: no step faults or is refused (R204, R205), activity that does not end (R193),
and the refusals that change nothing (R197, R198, R200). -/

namespace Sys2Proof.Machine

/-! ### Nothing is fatal (R204, R205) -/

/-- At IDLE, where the step runs it, a decoded command word is never refused. -/
theorem exec_command_answers {w : Byte} {i : Instr} (hd : decodeCommand w = .ok i) {s : State} (hc : s.ctl = .idle) :
    ∃ t, exec i s = .next t := by
  obtain rfl | rfl | rfl | rfl | ⟨m, rfl⟩ := decodeCommand_cases hd
  · exact ⟨_, (exec_tick_eq s).trans (atIdle_of_idle hc _)⟩
  · exact ⟨_, (exec_unableToArm_eq s).trans (atIdle_of_idle hc _)⟩
  · exact ⟨_, (exec_disarmed_eq s).trans (atIdle_of_idle hc _)⟩
  · exact ⟨_, (exec_strike_eq s).trans (atIdle_of_idle hc _)⟩
  · exact ⟨_, (exec_setMode_eq m s).trans (atIdle_of_idle hc _)⟩

/-- At a dispatch, where the step runs it, a decoded packet is never refused. -/
theorem exec_message_answers {pkt : Packet} {i : Instr} (hd : decodePacket pkt = .ok i) {s : State}
    (hc : s.ctl = .dispatch pkt) : ∃ t, exec i s = .next t := by
  obtain ⟨k, -, rfl⟩ := decodePacket_cases hd
  by_cases hk : k = .ack
  · subst hk
    exact ⟨_, (exec_ack_eq _ s).trans (atDispatch_of_dispatch hc _)⟩
  · exact ⟨_, (exec_ofKind_eq_of_ne_ack hk _ s).trans (atDispatch_of_dispatch hc _)⟩

theorem step_answers_of_idle {s : State} (hr : s.rst ≠ some 0) (hc : s.ctl = .idle) : ∃ t, step s = .next t := by
  cases hq : s.cmdQ with
  | nil => exact ⟨s, step_idle hr hc hq⟩
  | cons w rest =>
    cases hd : decodeCommand w with
    | ok i =>
      rw [step_command hr hc hq hd]
      exact exec_command_answers hd hc
    | error e => exact ⟨_, step_illegal hr hc hq hd⟩

theorem step_answers_of_dispatch {s : State} {pkt : Packet} (hr : s.rst ≠ some 0) (hc : s.ctl = .dispatch pkt) :
    ∃ t, step s = .next t := by
  cases hd : decodePacket pkt with
  | ok i =>
    rw [step_message hr hc hd]
    exact exec_message_answers hd hc
  | error e => exact ⟨_, step_reserved hr hc hd⟩

/-- Settles O19: the step runs a command only at IDLE and a message only at its dispatch, where neither is refused; its
other branches give a state outright. -/
theorem noStepFaultsOrRefuses : Obligations.NoStepFaultsOrRefuses := by
  intro s
  by_cases hr : s.rst = some 0
  · exact ⟨_, step_reset hr⟩
  by_cases hi : s.ctl = .idle
  · exact step_answers_of_idle hr hi
  by_cases hd : ∃ pkt, s.ctl = .dispatch pkt
  · obtain ⟨pkt, hc⟩ := hd
    exact step_answers_of_dispatch hr hc
  · exact ⟨_, step_running hr hi (not_exists.1 hd)⟩

/-! ### Activity that does not end in time (R193) -/

/-- A TICK's POLL has waited ACTIVITY_TIMEOUT for an active line and discarded what was there (41_bus_transport.md R110,
R113). -/
def State.tickUnended (s : State) (ls : List Bool) (rest : List Burst) : State :=
  { s with
    lineQ := ls
    burstQ := rest
    rxbuf := []
    events := []
    fwd := none
    trace := s.trace ++ [.lineActive true, .waitActivityEnd s.cfg.activityTimeout false] }

/-- A TICK whose POLL has waited in vain goes on to RETRY_CHECK with TIMEOUT(activity) recorded
(44_node_session.md R155). -/
theorem exec_tick_timedOut {s : State} {ls : List Bool} {rest : List Burst} (hs : s.ready) (hl : s.lineQ = true :: ls)
    (hb : s.burstQ = .timedOut :: rest) :
    exec .tick s = .next (settle (retryCheck (emit (.timeout .activity) (s.tickUnended ls rest)))) := by
  obtain ⟨hc, hr⟩ := hs
  rw [exec_tick_eq, atIdle_of_idle hc, settle_rxSample_active (s := goto (.rxSample .tick) (accept s)) rfl hr hl]
  refine congrArg Host.Outcome.next (Eq.trans (settle_rxWaitEnd_timedOut rfl hr hb) (congrArg settle ?_))
  rw [← retryCheck_goto (.rxWaitEnd .tick)]
  simp only [pollRaise, pollDone, State.tickUnended, flush, emit, State.call, goto, accept, List.append_assoc,
    List.cons_append, List.nil_append]

/-- Settles O25: POLL's wait runs out and it returns Nothing, so RETRY_CHECK is all that follows. -/
theorem tickTimesOutOnEndlessActivity : Obligations.TickTimesOutOnEndlessActivity := by
  intro s ls rest hs hl hb waited
  rw [exec_tick_timedOut hs hl hb]
  constructor
  · intro hp
    rw [settle_retryCheck_of_empty (s := emit _ (s.tickUnended ls rest)) hp]
    dsimp only [waited]
    rw [hs.1]
    rfl
  · intro hp
    rw [retryCheck_of_pending (s := emit _ (s.tickUnended ls rest)) hp]
    rfl

/-! ### Refusals that change nothing (R197, R198, R200) -/

/-- A command refused as soon as it is accepted adds its response, with the one event of the refusal, and leaves every
state element as it was. -/
theorem respond_emit_accept (status : Status) (e : Event) {s : State} (hc : s.ctl = .idle) :
    respond status (emit e (accept s)) = { s with
      rsps := s.rsps ++ [⟨status, [e], none⟩]
      events := []
      fwd := none } := by
  rw [hc]
  rfl

/-- Settles O16: a word off the list is not decoded, so the step rejects it. -/
theorem illegalWordAnsweredWithoutEffect : Obligations.IllegalWordAnsweredWithoutEffect := by
  rintro s w rest ⟨hc, hr⟩ hq illegal
  cases hd : decodeCommand w with
  | ok i => exact absurd ((eightLegalCommandWords w).1 ⟨i, hd⟩) illegal
  | error e =>
    rw [step_illegal (by simp [hr]) hc hq hd]
    exact congrArg Host.Outcome.next (respond_emit_accept .illegal (.illegalCmd w) (s := { s with cmdQ := rest }) hc)

/-- With a packet pending and no room in the backlog QUEUE_SEND returns BUSY (43_delivery_manager.md R136). -/
theorem settle_queueSend_refuses (op : SendCmd) (r : Request) {s : State} (hp : s.pend ≠ none)
    (full : s.cfg.backlogDepth ≤ s.bq.length) : settle (queueSend op r s) = respond .busy (emit .txqFull s) := by
  obtain ⟨hp', -⟩ | ⟨-, room, -⟩ | ⟨-, -, h⟩ := queueSend_cases op r s
  · contradiction
  · omega
  · rw [h, settle_respond]

/-- Settles O32: each of the three commands runs QUEUE_SEND, which finds no room. -/
theorem fullBacklogRefusesRequests : Obligations.FullBacklogRefusesRequests := by
  rintro s ⟨hc, -⟩ hp full i hi
  have refuses (op : SendCmd) (r : Request) := settle_queueSend_refuses op r (s := accept s) hp full.ge
  rw [← respond_emit_accept .busy .txqFull hc]
  obtain rfl | ⟨hm, rfl | rfl⟩ := hi
  · rw [exec_unableToArm_of_idle hc, refuses]
  · rw [exec_strike_of_idle hc hm, refuses]
  · rw [exec_disarmed_of_idle hc hm, refuses]

/-- In the terminal mode the guard of 44_node_session.md R157 and R158 lets nothing be queued. -/
theorem atIdle_guardedSend_terminal (op : SendCmd) (r : Request) {s : State} (hc : s.ctl = .idle)
    (hm : s.mode = .disarmed) :
    (atIdle s fun s => if s.terminal then respond .rejected (emit (.terminalReject op) s)
      else settle (queueSend op r s)) = .next { s with
        rsps := s.rsps ++ [⟨.rejected, [.terminalReject op], none⟩]
        events := []
        fwd := none } := by
  have guard : (accept s).terminal = true := beq_iff_eq.2 hm
  rw [atIdle_of_idle hc, if_pos guard, respond_emit_accept _ _ hc]

/-- Settles O33: both commands have the terminal-state guard before their QUEUE_SEND. -/
theorem terminalModeRejects : Obligations.TerminalModeRejects := by
  rintro s ⟨hc, -⟩ hm
  exact ⟨(exec_strike_eq s).trans (atIdle_guardedSend_terminal .strike _ hc hm),
    (exec_disarmed_eq s).trans (atIdle_guardedSend_terminal .disarmed _ hc hm)⟩

end Sys2Proof.Machine
end

section
/-! SUPPORT. Where a host command comes to rest (00_scope.md R7), and what the reset input leaves
(70_reset_and_hazards.md R220). -/

namespace Sys2Proof.Machine

/-! ### A wait point that cannot be passed lacks its answer -/

theorem atRxSample_none {p : Poller} {s : State} (h : atRxSample p s = none) : s.lineQ = [] := by
  unfold atRxSample at h
  split at h
  · next hl => exact takeLine_none.1 hl
  · cases h
  · cases h

theorem atRxWaitEnd_none {p : Poller} {s : State} (h : atRxWaitEnd p s = none) : s.burstQ = [] := by
  unfold atRxWaitEnd at h
  split at h
  · next hb => exact takeBurst_none.1 hb
  · cases h
  · cases h

theorem atArbSample_none {k : Sender} {s : State} (h : atArbSample k s = none) : s.lineQ = [] := by
  unfold atArbSample at h
  split at h
  · next hl => exact takeLine_none.1 hl
  · cases h
  · cases h

theorem atArbDraw_none {k : Sender} {s : State} (h : atArbDraw k s = none) : s.drawQ = [] := by
  unfold atArbDraw at h
  split at h
  · next hd => exact takeDraw_none.1 hd
  · cases h

theorem atTimeSample_none {p : TimePoint} {s : State} (h : atTimeSample p s = none) : s.nowQ = [] := by
  unfold atTimeSample at h
  split at h
  · next hn => exact takeNow_none.1 hn
  · cases p <;> cases h

/-- The wait points that take no answer are always passed, and the others are passed unless the answer is missing. -/
theorem resting_of_passCtl_none {s : State} (h : passCtl s = none) : s.resting := by
  unfold passCtl at h
  refine .inr ?_
  cases hc : s.ctl <;> simp only [hc] at h ⊢
  case rxSample => exact atRxSample_none h
  case rxWaitEnd => exact atRxWaitEnd_none h
  case arbSample => exact atArbSample_none h
  case arbDraw => exact atArbDraw_none h
  case timeSample => exact atTimeSample_none h
  all_goals cases h

/-- `advance` stops for the reset input or where no wait point can be passed. -/
theorem resting_of_advance_none {s : State} (h : advance s = none) : s.resting := by
  unfold advance at h
  split at h
  · next hr => exact .inl hr
  · exact resting_of_passCtl_none (Option.map_eq_none_iff.1 h)

/-! ### Commands run until they rest -/

theorem settle_resting (s : State) : (settle s).resting := resting_of_advance_none (settle_stops s)

/-- A command that has answered rests. -/
theorem respond_resting (status : Status) (s : State) : (respond status s).resting := .inr trivial

theorem guardedSend_resting (op : SendCmd) (r : Request) (s : State) :
    (if s.terminal then respond .rejected (emit (.terminalReject op) s) else settle (queueSend op r s)).resting := by
  split
  · exact respond_resting _ _
  · exact settle_resting _

theorem setMode_resting (m : Mode) (s : State) :
    (if legalEdge s.mode m then respond .ok { s with mode := m }
      else respond .badEdge (emit (.illegalModeEdge s.mode m) s)).resting := by
  split
  · exact respond_resting _ _
  · exact respond_resting _ _

theorem atIdle_resting {s t : State} {run : State → State} (h : atIdle s run = .next t)
    (hrun : ∀ u, (run u).resting) : t.resting := by
  obtain ⟨-, rfl⟩ := atIdle_next h
  exact hrun (accept s)

/-- The instructions of the command port are the five host commands (30_encoding.md R77). -/
theorem Instr.command_cases {i : Instr} (h : i.port = .command) :
    i = .tick ∨ i = .unableToArm ∨ i = .disarmed ∨ i = .strike ∨ ∃ m, i = .setMode m := by
  cases i
  case tick => exact .inl rfl
  case unableToArm => exact .inr (.inl rfl)
  case disarmed => exact .inr (.inr (.inl rfl))
  case strike => exact .inr (.inr (.inr (.inl rfl)))
  case setMode m => exact .inr (.inr (.inr (.inr ⟨m, rfl⟩)))
  all_goals cases h

/-- Settles O55: a command ends with a response or where `settle` stops, and the fuel of `settle` suffices
(`settle_stops`). -/
theorem commandsRunUntilTheyRest : Obligations.CommandsRunUntilTheyRest := by
  intro i s t hi h
  obtain rfl | rfl | rfl | rfl | ⟨m, rfl⟩ := Instr.command_cases hi
  · rw [exec_tick_eq] at h
    exact atIdle_resting h fun u => settle_resting _
  · rw [exec_unableToArm_eq] at h
    exact atIdle_resting h fun u => settle_resting _
  · rw [exec_disarmed_eq] at h
    exact atIdle_resting h (guardedSend_resting .disarmed _)
  · rw [exec_strike_eq] at h
    exact atIdle_resting h (guardedSend_resting .strike _)
  · rw [exec_setMode_eq] at h
    exact atIdle_resting h (setMode_resting m)

/-! ### The reset input -/

/-- The reset input sends no byte: at most it releases SEND_INTENT. -/
theorem hardReset_sentBytes (s : State) : sentBytes (hardReset s).trace = sentBytes s.trace := by
  rw [hardReset_trace]
  split
  · exact (call_silent (c := .setSendIntent false) rfl s).sent
  · rfl

/-- Settles O14: the step is `hardReset`, whose fields are those of `State.reset` but for the world outside and the
parameters. -/
theorem resetInputForcesResetState : Obligations.ResetInputForcesResetState := fun s hr =>
  ⟨hardReset s, step_reset hr, hardReset_addr s, hardReset_lastSeq s, hardReset_mode s, hardReset_pend s, hardReset_bq s,
    hardReset_sendIntent s, hardReset_ctl s, hardReset_rxbuf s, hardReset_cfg s, hardReset_rsps s, hardReset_sentBytes s,
    hardReset_cmdQ s, hardReset_rst s⟩

end Sys2Proof.Machine
end
